-- ==== Sys2Proof/Word.lean ====
section
/-! DEFINITION. The word types of the block: bytes, 16-bit samples, 32-bit registers and bus words, and 64-bit quantities (R8, R10, R18). -/

namespace Sys2Proof

/-- A byte: an element of RAW, F8IN, F8OUT and LUT, and one lane of the host bus (R36, R38, R39, R42, R51). -/
abbrev Byte := BitVec 8

/-- A 16-bit element of F16 (R37). -/
abbrev Half := BitVec 16

/-- A 32-bit register, command word or bus data word (R18, R50, R72). -/
abbrev Word := BitVec 32

/-- A 64-bit quantity held in a `_LO`/`_HI` register pair or in an 8-byte array element (R18, R41). -/
abbrev DWord := BitVec 64

/-- An IEEE 754 binary64 datum, as its 64-bit encoding (R10, R76). -/
abbrev F64 := BitVec 64

end Sys2Proof
end

