-- ==== Sys2Proof/Config.lean ====
section
/-! DEFINITION. What is fixed for an instance of the block (the implementation parameters of R6), and the free values: what the spec leaves unspecified, as constants without a body. -/

namespace Sys2Proof

/-- The rounding of Step 3's `round` (R6, R117). -/
inductive ModhistRound where
  | halfAway
  | halfEven
  deriving DecidableEq, Repr

/-- The conversion from a real to an integer inside Step 7's `clamp_to_uint8` (R6, R127). -/
inductive TableCvt where
  | nearestEven
  | nearestAway
  | truncate
  deriving DecidableEq, Repr

/-- The implementation parameters of R6 that a rule of the spec reads, each with the spec's default.
`NUMERICS` has the one value the spec describes (binary64, roundTiesToEven; R10), so it is the arithmetic of
Machine/F64.lean. `BASE` and `N_INSTANCES` do not act inside one instance (assumption 6). -/
structure Params where
  /-- `MAX_PIXELS`: the capacity of the frame buffers in pixels. -/
  maxPixels : Nat := 327680
  /-- `RESET_W`: the reset value of WIDTH. -/
  resetW : Nat := 640
  /-- `RESET_H`: the reset value of HEIGHT. -/
  resetH : Nat := 512
  /-- `NATIVE_CLAMP`: whether LOAD_NATIVE clamps samples to 16383. -/
  nativeClamp : Bool := true
  /-- `MODHIST_ROUND`. -/
  modhistRound : ModhistRound := .halfAway
  /-- `TABLE_CVT`. -/
  tableCvt : TableCvt := .nearestEven
  deriving DecidableEq, Repr

/-- The instance the machine is: every parameter at the spec's default (R6; DESIGN CHOICE, assumption 8). -/
def Config.params : Params := {}

/-- The floating-point operations that can give a NaN (R10). -/
inductive FloatOp where
  | add
  | mul
  | div
  | sqrt
  deriving DecidableEq, Repr

/-- FREE VALUE (assumption 1). What the storage byte at an offset holds between the reset numbered by the first argument
and the first write after it: "every element of every buffer holds an unspecified value" (R44, R176, R186), one
draw for each element that stays until it is written (93_implementation_defined.md S1). -/
opaque Config.unwrittenByte : Nat → Nat → Byte

/-- FREE VALUE (assumption 2). The fresh draw that a host read of result state gets while BUSY = 1; the argument counts
such reads (R184, S3). That the reserved bits of a register read so are drawn too is a DESIGN CHOICE (assumption 2). -/
opaque Config.busyRead : Nat → Word

/-- FREE VALUE (assumption 3). The sign and the 51 payload bits of the quiet NaN that an operation gives on the given
operands, which IEEE 754 leaves to the implementation (R10). -/
opaque Config.nanResult : FloatOp → F64 → F64 → BitVec 52

end Sys2Proof
end

