-- ==== Sys2Proof/Machine/F64.lean ====
section
/-! DEFINITION. IEEE 754 binary64 arithmetic with roundTiesToEven, subnormals kept and nothing fused (R10), the rounding functions to integers (R11), and the exact scaling and binary logarithm of R112.

Every finite binary64 value is an integer multiple of the least subnormal 2^-1074. The operations compute the exact
result as a fraction of that unit and round it once. What the spec takes from IEEE 754 by name is PRESUMED (assumption 15). -/

namespace Sys2Proof.Machine

/-- The number of least subnormals 2^-1074 in 1. -/
def f64One : Nat := 1 <<< 1074

/-- The magnitude encoding of infinity: biased exponent 2047, fraction 0. -/
def f64Inf : Nat := 0x7FF0000000000000

/-- The sign bit (R76). -/
def f64Sign (x : F64) : Bool := x.getLsbD 63

/-- The encoding without its sign bit: biased exponent in bits [62:52], fraction in bits [51:0] (R76). -/
def f64Mag (x : F64) : Nat := x.toNat % 0x8000000000000000

/-- `isnan` (R10). -/
def isnan (x : F64) : Bool := decide (f64Inf < f64Mag x)

/-- `isinf` (R10). -/
def isinf (x : F64) : Bool := decide (f64Mag x = f64Inf)

/-- `isfinite` (R10). -/
def isfinite (x : F64) : Bool := decide (f64Mag x < f64Inf)

/-- The magnitude of a finite value as a count of least subnormals: the fraction for biased exponent 0, and else
(2^52 + fraction) · 2^(biased exponent - 1). -/
def f64Units (x : F64) : Nat :=
  if f64Mag x / 0x10000000000000 = 0 then f64Mag x
  else (0x10000000000000 + f64Mag x % 0x10000000000000) <<< (f64Mag x / 0x10000000000000 - 1)

/-- A finite value as a signed count of least subnormals. -/
def f64Int (x : F64) : Int := if f64Sign x then -(f64Units x : Int) else (f64Units x : Int)

/-- The encoding with a given sign and magnitude encoding. -/
def f64Make (neg : Bool) (mag : Nat) : F64 := BitVec.ofNat 64 ((if neg then 0x8000000000000000 else 0) + mag)

/-- Round a quotient k with remainder r of divisor d to an integer, ties to even. -/
def tiesToEven (k r d : Nat) : Nat :=
  if 2 * r < d then k else if d < 2 * r then k + 1 else k + k % 2

/-- The binary logarithm of n, taken by trial shifts first. -/
def log2From : List Nat → Nat → Nat
  | [], n => Nat.log2 n
  | k :: ks, n => if n >>> k = 0 then log2From ks n else k + log2From ks (n >>> k)

/-- The floor of the binary logarithm of n ≥ 1: `Nat.log2 n` (Laws/F64.lean), in few steps for every n below 2^4096. -/
def binLog (n : Nat) : Nat := log2From [2048, 1024, 512, 256, 128, 64, 32, 16, 8, 4, 2, 1] n

/-- The magnitude encoding of the binary64 value nearest to num/den least subnormals, ties to even, overflow to
infinity (R10). A value of b > 53 significant bits is rounded to a multiple of 2^(b-53), a smaller one to an integer
(so subnormals are kept). A rounded significand k with that exponent shift e is encoded by e·2^52 + k, whether it is
subnormal, normal, or has just carried into the next binade. -/
def roundMag (num den : Nat) : Nat :=
  let e := binLog (num / den) + 1 - 53
  let d := den <<< e
  min (e * 0x10000000000000 + tiesToEven (num / d) (num % d) d) f64Inf

/-- The binary64 value nearest to ±num/den least subnormals (R10). -/
def f64Round (neg : Bool) (num den : Nat) : F64 := f64Make neg (roundMag num den)

/-- Infinity of a sign. -/
def f64Infinity (neg : Bool) : F64 := f64Make neg f64Inf

/-- A quiet NaN whose sign and payload are free (assumption 3). -/
def f64NaN (op : FloatOp) (a b : F64) : F64 :=
  let free := (Config.nanResult op a b).toNat
  f64Make (decide (0x8000000000000 ≤ free)) (f64Inf + 0x8000000000000 + free % 0x8000000000000)

/-- `f64(n)` for a natural number, exact below 2^53 (R10). -/
def f64OfNat (n : Nat) : F64 := f64Round false (n <<< 1074) 1

/-- The negation: the sign bit flipped. -/
def fneg (x : F64) : F64 := x ^^^ 0x8000000000000000

/-- `fadd` (R10). The exact sum of two zeros of one sign keeps the sign; any other sum that is exactly 0 is +0. -/
def fadd (a b : F64) : F64 :=
  if isnan a || isnan b then f64NaN .add a b
  else if isinf a then
    if isinf b && (f64Sign a != f64Sign b) then f64NaN .add a b else a
  else if isinf b then b
  else
    let sum := f64Int a + f64Int b
    if sum = 0 then f64Make (f64Sign a && f64Sign b) 0
    else f64Round (decide (sum < 0)) sum.natAbs 1

/-- `fsub` (R10). -/
def fsub (a b : F64) : F64 := fadd a (fneg b)

/-- `fmul` (R10). -/
def fmul (a b : F64) : F64 :=
  let neg := f64Sign a != f64Sign b
  if isnan a || isnan b then f64NaN .mul a b
  else if isinf a || isinf b then
    if f64Mag a = 0 || f64Mag b = 0 then f64NaN .mul a b else f64Infinity neg
  else f64Round neg (f64Units a * f64Units b) f64One

/-- `fdiv` (R10). -/
def fdiv (a b : F64) : F64 :=
  let neg := f64Sign a != f64Sign b
  if isnan a || isnan b then f64NaN .div a b
  else if isinf a then
    if isinf b then f64NaN .div a b else f64Infinity neg
  else if isinf b then f64Make neg 0
  else if f64Mag b = 0 then
    if f64Mag a = 0 then f64NaN .div a b else f64Infinity neg
  else f64Round neg (f64Units a <<< 1074) (f64Units b)

/-- One more binary digit of a square root: r, r·2^i or r·2^i + 2^i by trial, from digit `bits - 1` down to 0. -/
def isqrtFrom (n : Nat) : Nat → Nat → Nat
  | 0, r => r
  | bits + 1, r =>
    let r' := r + 1 <<< bits
    isqrtFrom n bits (if r' * r' ≤ n then r' else r)

/-- The floor of the square root of n, for n below 4^54. -/
def isqrt (n : Nat) : Nat := isqrtFrom n 54 0

/-- The magnitude encoding of the binary64 value nearest to the square root of x least subnormals that are an exact
count `units` (R10, R122). With X = units · 2^1074 the root is √X least subnormals; e is chosen so that
k = ⌊√X / 2^e⌋ has 53 bits, and √X is compared with (k + 1/2)·2^e by squaring. -/
def sqrtMag (units : Nat) : Nat :=
  let x := units <<< 1074
  let e := (binLog x + 2) / 2 - 53
  let k := isqrt (x >>> (2 * e))
  let half := (2 * k + 1) * (2 * k + 1) <<< (2 * e)
  let k' := if 4 * x < half then k else if half < 4 * x then k + 1 else k + k % 2
  e * 0x10000000000000 + k'

/-- `fsqrt` (R10): the IEEE squareRoot. -/
def fsqrt (a : F64) : F64 :=
  if isnan a then f64NaN .sqrt a a
  else if f64Mag a = 0 then a
  else if f64Sign a then f64NaN .sqrt a a
  else if isinf a then a
  else f64Make false (sqrtMag (f64Units a))

/-- A value of the ordering of finite values and infinities: infinities lie beyond every finite value. -/
def f64Order (x : F64) : Int :=
  if f64Sign x then -(f64Mag x : Int) else (f64Mag x : Int)

/-- IEEE `==`: false on a NaN, and +0 == -0 (R10). -/
def feq (a b : F64) : Bool := !isnan a && !isnan b && decide (f64Order a = f64Order b)

/-- IEEE `<` (R10). -/
def flt (a b : F64) : Bool := !isnan a && !isnan b && decide (f64Order a < f64Order b)

/-- `ldexp(x, n)`: x·2^n, exact where it is representable (R10). -/
def ldexp (x : F64) (n : Int) : F64 :=
  match n with
  | .ofNat m => f64Round (f64Sign x) (f64Units x <<< m) 1
  | .negSucc m => f64Round (f64Sign x) (f64Units x) (1 <<< (m + 1))

/-- The least t with 2^t ≥ n, for n ≥ 1. -/
def ceilLog2 (n : Nat) : Nat := if 1 <<< binLog n = n then binLog n else binLog n + 1

/-- The least integer e such that 2^e ≥ x, taken on the exact value of a finite x > 0 (R112). -/
def leastExponent (x : F64) : Int := (ceilLog2 (f64Units x) : Int) - 1074

/-- The integer nearest to n least subnormals, a tie going away from zero, for a magnitude (R11). -/
def halfAwayMag (n : Nat) : Nat := (2 * n + f64One) / (2 * f64One)

/-- The integer nearest to n least subnormals, a tie going to the even integer, for a magnitude (R11). -/
def halfEvenMag (n : Nat) : Nat := tiesToEven (n / f64One) (n % f64One) f64One

/-- `floor(x)`: the greatest integer not above a finite x (R11). -/
def ffloor (x : F64) : Int := f64Int x / (f64One : Int)

/-- `round_half_away(x)` (R11). -/
def roundHalfAway (x : F64) : Int :=
  if f64Sign x then -(halfAwayMag (f64Units x) : Int) else (halfAwayMag (f64Units x) : Int)

/-- `round_half_even(x)` (R11). -/
def roundHalfEven (x : F64) : Int :=
  if f64Sign x then -(halfEvenMag (f64Units x) : Int) else (halfEvenMag (f64Units x) : Int)

/-- `trunc(x)`: x with its fraction dropped toward zero (R11). -/
def ftrunc (x : F64) : Int :=
  if f64Sign x then -((f64Units x / f64One : Nat) : Int) else ((f64Units x / f64One : Nat) : Int)

end Sys2Proof.Machine
end

