-- ==== Sys2Proof/Syntax.lean ====
section
/-! DEFINITION. What the block is given to do: the ten commands (R73), the host's bus accesses, which are "the second kind of operation" (R77) and the moves of the two agents and of the reset input. -/

namespace Sys2Proof

/-- The commands of HA-CMD version 1, one for each row of the opcode map (R73). A command has no operand field:
"every operand is a register or a buffer named by the command's rule" (R75). -/
inductive Instr where
  | nop
  | loadBe
  | loadNative
  | compress
  | hist
  | tone
  | remap
  | enhance
  | pipeline
  | invalidate
  deriving DecidableEq, Repr

/-- The OPCODE of a command (R73). -/
def Instr.opcode : Instr → Byte
  | .nop => 0x00
  | .loadBe => 0x01
  | .loadNative => 0x02
  | .compress => 0x03
  | .hist => 0x04
  | .tone => 0x05
  | .remap => 0x06
  | .enhance => 0x07
  | .pipeline => 0x08
  | .invalidate => 0x09

/-- The width of a host access: 1, 2 or 4 bytes (R50). -/
inductive AccessSize where
  | byte
  | half
  | word
  deriving DecidableEq, Repr

/-- The number of bytes of an access width (R50). -/
def AccessSize.bytes : AccessSize → Nat
  | .byte => 1
  | .half => 2
  | .word => 4

/-- A host-bus access at a byte offset from BASE: `MemRead(a, n)`, or `MemWrite(a, n, v)` of the low n bytes of v (R50). -/
inductive Access where
  | read (size : AccessSize) (offset : Nat)
  | write (size : AccessSize) (offset : Nat) (value : Word)
  deriving DecidableEq, Repr

/-- One move: a host access, a turn of the engine, or the reset input asserted (R15, R50, R142, R176). Any order of
host accesses and engine turns is a possible one (93_implementation_defined.md S4, S10). -/
inductive Move where
  | access (a : Access)
  | engine
  | reset
  deriving DecidableEq, Repr

end Sys2Proof
end

