-- ==== Sys2Proof/Machine/State.lean ====
section
/-! DEFINITION. The state of the block as plain data, its reset, the names of its registers and buffers, the errors a stage can raise, and the reasons a step can stop. -/

namespace Sys2Proof.Machine

/-- The error codes 1 to 7 of STATUS.ERRCODE (R157). -/
inductive ErrCode where
  | ioError
  | degenerateFrame
  | degenerateStatistics
  | invalidDimensions
  | illegalCommand
  | sequence
  | config
  deriving DecidableEq, Repr

/-- What `raise CODE(stage, step)` records: the code, the opcode of the stage that raised it, and the §4.3 step
(R9, R28, R158). -/
structure StageError where
  code : ErrCode
  stage : Byte
  step : Byte
  deriving DecidableEq, Repr

/-- The response to a host access: OKAY or ERROR, and for a read the data word (R50, R52, R53; assumption 9). -/
structure Response where
  okay : Bool
  rdata : Option Word
  deriving DecidableEq, Repr

/-- The registers of R18, in the order of their offsets. -/
inductive RegName where
  | ctrl | status | cmd | errinfo | width | height | rawLen | valid | threshold | alpha | gainLo | gainHi
  | minv | maxv | k | count | kgLo | kgHi | kprimeLo | kprimeHi | kexp | fallback | uLo | uHi
  | pdfminLo | pdfminHi | pdfmaxLo | pdfmaxHi | cdfsumLo | cdfsumHi
  deriving DecidableEq, Repr

/-- The buffers of R36 to R42. -/
inductive Buffer where
  | hist | mhist | pdf | pdfw | cdfw | lut | raw | f16 | f8in | f8out
  deriving DecidableEq, Repr

/-- The storage of the block's buffers: the bytes written since the last reset, keyed by their byte offset from BASE
(R56 to R59). An offset that is not listed holds no written byte; what such a byte reads as is `unwritten` of
Machine/Ops.lean. Canonical form: `Memory.wf` of Machine/Ops.lean. -/
abbrev Memory := List Host.Cell

/-- The state of the block. The registers are those of R18, each under its name; a 64-bit quantity in a `_LO`/`_HI`
pair is stored once, and Machine/Ops.lean gives the two halves. The last four fields are the model's own: the moves
still to come, the response to the last host access, and the two counters that free values are drawn with. -/
structure State where
  /-- CTRL (R19). -/
  ctrl : Word
  /-- STATUS (R20). -/
  status : Word
  /-- CMD: the last accepted command word; while STATUS.BUSY = 1, the pending command (R21, R45). -/
  cmd : Word
  /-- ERRINFO (R28). -/
  errinfo : Word
  /-- WIDTH (R22). -/
  width : Word
  /-- HEIGHT (R22). -/
  height : Word
  /-- RAW_LEN (R23). -/
  rawLen : Word
  /-- VALID (R24). -/
  valid : Word
  /-- THRESHOLD (R25). -/
  threshold : Word
  /-- ALPHA: stored and read by no stage (R26). -/
  alpha : Word
  /-- GAIN_HI:GAIN_LO (R27). -/
  gain : F64
  /-- MINV (R29). -/
  minv : Word
  /-- MAXV (R29). -/
  maxv : Word
  /-- K (R30). -/
  k : Word
  /-- COUNT (R30). -/
  count : Word
  /-- KG_HI:KG_LO (R31). -/
  kg : F64
  /-- KPRIME_HI:KPRIME_LO (R32). -/
  kprime : F64
  /-- KEXP (R32). -/
  kexp : Word
  /-- FALLBACK (R35). -/
  fallback : Word
  /-- U_HI:U_LO (R33). -/
  u : F64
  /-- PDFMIN_HI:PDFMIN_LO (R34). -/
  pdfmin : F64
  /-- PDFMAX_HI:PDFMAX_LO (R34). -/
  pdfmax : F64
  /-- CDFSUM_HI:CDFSUM_LO (R34). -/
  cdfsum : F64
  /-- RAW, F16, F8IN, F8OUT, HIST, MHIST, PDF, PDFW, CDFW and LUT (R36 to R42), at their offsets (R56). -/
  mem : Memory
  /-- MODEL: the moves of the host, the engine and the reset input that are still to come, in order (R15, R49, R66). -/
  moves : List Move
  /-- MODEL: the response to the last host access, none before the first (R50). -/
  response : Option Response
  /-- MODEL: how many resets there have been; numbers the draws of unwritten bytes (R44, R176). -/
  epoch : Nat
  /-- MODEL: how many reads of result state while BUSY = 1 there have been; numbers their draws (R184). -/
  draws : Nat
  deriving DecidableEq, Repr

/-- The machine right after reset (R18, R176, R177): every register at the reset value of R18, no buffer element
written; no move to come and both counters 0 (DESIGN CHOICE for the model's own fields, assumption 10). -/
def State.reset : State where
  ctrl := 0x00000000
  status := 0x00000000
  cmd := 0x00000000
  errinfo := 0x00000000
  width := BitVec.ofNat 32 Config.params.resetW
  height := BitVec.ofNat 32 Config.params.resetH
  rawLen := 0x00000000
  valid := 0x00000000
  threshold := 0x00000005
  alpha := 0x00000000
  gain := 0x4024000000000000
  minv := 0x00000000
  maxv := 0x00000000
  k := 0x00000000
  count := 0x00000000
  kg := 0x0000000000000000
  kprime := 0x0000000000000000
  kexp := 0x00000000
  fallback := 0x00000000
  u := 0x0000000000000000
  pdfmin := 0x0000000000000000
  pdfmax := 0x0000000000000000
  cdfsum := 0x0000000000000000
  mem := []
  moves := []
  response := none
  epoch := 0
  draws := 0

/-- The reasons the machine stops with a fault: there are none. "Nothing the block does can make it stuck: every host
access gets a response, every accepted command completes, and after an error the block accepts the next command"
(R191). Raised by: nothing. Safe: there is no behaviour it cuts off. -/
inductive Fault where
  deriving DecidableEq, Repr

/-- The reasons a step has no meaning in this model. -/
inductive Refusal where
  /-- An instruction of the opcode table without a meaning. Raised by: no arm of `exec`. Safe: it only stops a run. -/
  | notModelled (mnemonic : String)
  /-- A host access that starts outside the decoded offsets 0x0000_0000 to 0x04FF_FFFF: "outside the block; the platform
  decides. A model of the block alone should `refuse` the access" (R50, S9). Raised by: the bus access of
  Machine/HostBus.lean. Safe: it only stops a run (assumption 7). -/
  | outsideBlock
  deriving DecidableEq, Repr

end Sys2Proof.Machine
end

