-- ==== Sys2Proof/Machine/Flags.lean ====
section
/-! DEFINITION. The status flags of the block (R47): the fields of CTRL, STATUS, VALID and FALLBACK, every way STATUS changes, and the interrupt output. -/

namespace Sys2Proof.Machine

/-- A word with bit i set to b. -/
def setBit (w : Word) (i : Nat) (b : Bool) : Word :=
  if b then w ||| (1#32 <<< i) else w &&& ~~~(1#32 <<< i)

/-! ### CTRL (R19) -/

/-- CTRL.IRQ_EN. -/
def State.irqEn (s : State) : Bool := s.ctrl.getLsbD 0

/-- CTRL.FLAT_ZERO. -/
def State.flatZero (s : State) : Bool := s.ctrl.getLsbD 1

/-- CTRL.K_FALLBACK. -/
def State.kFallback (s : State) : Bool := s.ctrl.getLsbD 2

/-- CTRL.PDF_FALLBACK. -/
def State.pdfFallback (s : State) : Bool := s.ctrl.getLsbD 3

/-- CTRL.TABLE0_COPY. -/
def State.table0Copy (s : State) : Bool := s.ctrl.getLsbD 4

/-- The bits of CTRL that exist: "[31:5] reserved: read as 0; writes ignored" (R19). -/
def ctrlMask : Word := 0x0000001F

/-! ### STATUS (R20) -/

/-- STATUS.BUSY. -/
def State.busy (s : State) : Bool := s.status.getLsbD 0

/-- STATUS.DONE. -/
def State.done (s : State) : Bool := s.status.getLsbD 1

/-- STATUS.ERR. -/
def State.err (s : State) : Bool := s.status.getLsbD 2

/-- STATUS.HOST_VIOL. -/
def State.hostViol (s : State) : Bool := s.status.getLsbD 3

/-- STATUS.ERRCODE, bits [11:8]. -/
def State.errcode (s : State) : BitVec 4 := s.status.extractLsb' 8 4

/-- The number of an error code (R157). -/
def ErrCode.number : ErrCode → BitVec 4
  | .ioError => 1
  | .degenerateFrame => 2
  | .degenerateStatistics => 3
  | .invalidDimensions => 4
  | .illegalCommand => 5
  | .sequence => 6
  | .config => 7

/-- STATUS at acceptance: BUSY 1; DONE, ERR and ERRCODE 0; HOST_VIOL unchanged (R141). -/
def statusAccepted (st : Word) : Word := (st &&& 0x00000008) ||| 0x00000001

/-- STATUS at completion: BUSY 0, DONE 1, the rest unchanged (R142). -/
def statusCompleted (st : Word) : Word := (st &&& 0xFFFFFFFE) ||| 0x00000002

/-- STATUS at completion with an error: BUSY 0, DONE 1, ERR 1, ERRCODE the code, the rest unchanged (R142). -/
def statusFailed (st : Word) (code : ErrCode) : Word :=
  (st &&& 0xFFFFF0FE) ||| 0x00000006 ||| (code.number.setWidth 32 <<< 8)

/-- STATUS when a host write is dropped: HOST_VIOL 1 (R20, R183). -/
def statusViolated (st : Word) : Word := st ||| 0x00000008

/-- STATUS after a host write of v: "for each of bits 1, 2, 3, a written 1 clears the bit and a written 0 leaves it;
all other bits ignore the write" (R20). -/
def statusCleared (st v : Word) : Word := st &&& ~~~(v &&& 0x0000000E)

/-! ### VALID (R24) -/

/-- VALID.V_F16. -/
def State.vF16 (s : State) : Bool := s.valid.getLsbD 0

/-- VALID.V_F8IN. -/
def State.vF8in (s : State) : Bool := s.valid.getLsbD 1

/-- VALID.V_STATS. -/
def State.vStats (s : State) : Bool := s.valid.getLsbD 2

/-- VALID.V_TONE. -/
def State.vTone (s : State) : Bool := s.valid.getLsbD 3

/-- VALID.V_OUT. -/
def State.vOut (s : State) : Bool := s.valid.getLsbD 4

/-- VALID after a host write of v: bit 1 of v is stored, every other bit ignores the write (R24). -/
def validWritten (valid v : Word) : Word := setBit valid 1 (v.getLsbD 1)

/-! ### FALLBACK (R35) -/

/-- FALLBACK after a COMPRESS that commits: FLAT_USED. -/
def fallbackCompress (fb : Word) (flatUsed : Bool) : Word := setBit fb 0 flatUsed

/-- FALLBACK after a TONE that commits: K_USED and PDF_USED. -/
def fallbackTone (fb : Word) (kUsed pdfUsed : Bool) : Word := setBit (setBit fb 1 kUsed) 2 pdfUsed

/-! ### The interrupt output -/

/-- `irq = CTRL.IRQ_EN AND STATUS.DONE` (R167): a level, not state. -/
def State.irq (s : State) : Bool := s.irqEn && s.done

end Sys2Proof.Machine
end

