-- ==== Sys2Proof/Machine/Ops.lean ====
section
/-! DEFINITION. The named operations on the block's storage and registers, and the life of a command: acceptance, completion, raising an error and the host's acknowledgement, the running of stages, and reset. -/

namespace Sys2Proof.Machine

/-! ### Storage (R36 to R44, R56 to R60) -/

/-- What an offset that nothing has written since the reset numbered `epoch` reads as: an unspecified value, one draw
for each byte that stays until it is written (R44, R186, S1). -/
def unwritten (epoch a : Nat) : Byte := Config.unwrittenByte epoch a

/-- The byte last written at an offset, none where nothing has written one. -/
def Memory.written (m : Memory) (a : Nat) : Option Byte := m.lookup a

/-- The byte at an offset. -/
def Memory.byteAt (m : Memory) (epoch a : Nat) : Byte := (m.written a).getD (unwritten epoch a)

/-- The n offsets from a on. -/
def offsetsFrom (a n : Nat) : List Nat := (List.range n).map fun j => a + j

/-- The cells that hold the bytes bs at the offsets from a on. -/
def cellsFrom (a : Nat) (bs : List Byte) : Memory := (offsetsFrom a bs.length).zip bs

/-- Write the bytes bs at the offsets from a on; every other offset keeps its value. -/
def Memory.write (m : Memory) (a : Nat) (bs : List Byte) : Memory :=
  m.filter (fun c => decide (c.1 < a)) ++ cellsFrom a bs ++ m.filter (fun c => decide (a + bs.length ≤ c.1))

/-- The canonical form: offsets strictly rising. (Every listed byte differs from what an unlisted offset reads as,
which is no written byte at all.) -/
def Memory.wf : Memory → Bool
  | [] => true
  | [_] => true
  | c :: d :: m => decide (c.1 < d.1) && Memory.wf (d :: m)

/-- The bytes at a list of offsets, walking the cells beside the offsets (rising and without repeats).
Laws/Memory.lean shows that it is `byteAt` of each offset. -/
def Memory.bytesAt (epoch : Nat) : Memory → List Nat → List Byte
  | _, [] => []
  | [], a :: as => unwritten epoch a :: Memory.bytesAt epoch [] as
  | c :: m, a :: as =>
    if c.1 = a then c.2 :: Memory.bytesAt epoch m as
    else Memory.byteAt (c :: m) epoch a :: Memory.bytesAt epoch (c :: m) as

/-- The n bytes from offset a on. -/
def Memory.read (m : Memory) (epoch a n : Nat) : List Byte :=
  Memory.bytesAt epoch (m.filter (fun c => decide (a ≤ c.1))) (offsetsFrom a n)

/-! ### The buffers' places (R56 to R59) -/

/-- The offset of element 0 (R56). -/
def Buffer.base : Buffer → Nat
  | .hist => 0x00001000
  | .mhist => 0x00001400
  | .pdf => 0x00001800
  | .pdfw => 0x00002000
  | .cdfw => 0x00002800
  | .lut => 0x00003000
  | .raw => 0x01000000
  | .f16 => 0x02000000
  | .f8in => 0x03000000
  | .f8out => 0x04000000

/-- The bytes of one element (R56). -/
def Buffer.elemBytes : Buffer → Nat
  | .hist => 4
  | .mhist => 4
  | .pdf => 8
  | .pdfw => 8
  | .cdfw => 8
  | .lut => 1
  | .raw => 1
  | .f16 => 2
  | .f8in => 1
  | .f8out => 1

/-- The number of elements (R36 to R42). -/
def Buffer.capacity (p : Params) : Buffer → Nat
  | .hist => 256
  | .mhist => 256
  | .pdf => 256
  | .pdfw => 256
  | .cdfw => 256
  | .lut => 256
  | .raw => 2 * p.maxPixels
  | .f16 => p.maxPixels
  | .f8in => p.maxPixels
  | .f8out => p.maxPixels

/-- The number of bytes of storage. -/
def Buffer.bytes (p : Params) (b : Buffer) : Nat := b.elemBytes * b.capacity p

/-- "RW" windows: RAW and F8IN (R56). -/
def Buffer.hostWritable : Buffer → Bool
  | .raw => true
  | .f8in => true
  | _ => false

/-- The buffer that stores the byte at an offset, none for a register, a reserved offset and an offset beyond a
window's capacity (R56, R60). -/
def bufferAt (p : Params) (a : Nat) : Option Buffer :=
  [Buffer.hist, .mhist, .pdf, .pdfw, .cdfw, .lut, .raw, .f16, .f8in, .f8out].find?
    (fun b => decide (b.base ≤ a) && decide (a < b.base + b.bytes p))

/-- The first n bytes of a buffer. -/
def State.bufferBytes (s : State) (b : Buffer) (n : Nat) : List Byte := s.mem.read s.epoch b.base n

/-- Write the first bytes of a buffer; the others keep their values. -/
def Memory.store (m : Memory) (b : Buffer) (bs : List Byte) : Memory := m.write b.base bs

/-! ### Elements and their bytes, least significant byte first (R51, R58, R59) -/

/-- The two bytes of a 16-bit element. -/
def halfBytes (h : Half) : List Byte := [h.extractLsb' 0 8, h.extractLsb' 8 8]

/-- The four bytes of a 32-bit element. -/
def wordElemBytes (w : Word) : List Byte :=
  [w.extractLsb' 0 8, w.extractLsb' 8 8, w.extractLsb' 16 8, w.extractLsb' 24 8]

/-- The eight bytes of a 64-bit element: bits [31:0] at +0, bits [63:32] at +4 (R59). -/
def dwordBytes (d : DWord) : List Byte :=
  wordElemBytes (d.extractLsb' 0 32) ++ wordElemBytes (d.extractLsb' 32 32)

/-- The 16-bit elements in a sequence of bytes. -/
def halvesOfBytes : List Byte → List Half
  | b0 :: b1 :: bs => (b1 ++ b0) :: halvesOfBytes bs
  | _ => []

/-- The 32-bit elements in a sequence of bytes. -/
def wordsOfBytes : List Byte → List Word
  | b0 :: b1 :: b2 :: b3 :: bs => (b3 ++ b2 ++ b1 ++ b0) :: wordsOfBytes bs
  | _ => []

/-! ### Registers (R18) -/

/-- The low half of a 64-bit quantity: the `_LO` register (R18). -/
def loHalf (d : DWord) : Word := d.extractLsb' 0 32

/-- The high half of a 64-bit quantity: the `_HI` register (R18). -/
def hiHalf (d : DWord) : Word := d.extractLsb' 32 32

/-- The offset of a register (R18). -/
def RegName.offset : RegName → Nat
  | .ctrl => 0x000
  | .status => 0x004
  | .cmd => 0x008
  | .errinfo => 0x00C
  | .width => 0x010
  | .height => 0x014
  | .rawLen => 0x018
  | .valid => 0x01C
  | .threshold => 0x020
  | .alpha => 0x024
  | .gainLo => 0x028
  | .gainHi => 0x02C
  | .minv => 0x030
  | .maxv => 0x034
  | .k => 0x038
  | .count => 0x03C
  | .kgLo => 0x040
  | .kgHi => 0x044
  | .kprimeLo => 0x048
  | .kprimeHi => 0x04C
  | .kexp => 0x050
  | .fallback => 0x054
  | .uLo => 0x058
  | .uHi => 0x05C
  | .pdfminLo => 0x060
  | .pdfminHi => 0x064
  | .pdfmaxLo => 0x068
  | .pdfmaxHi => 0x06C
  | .cdfsumLo => 0x070
  | .cdfsumHi => 0x074

/-- The registers in the order of R18. -/
def allRegs : List RegName :=
  [.ctrl, .status, .cmd, .errinfo, .width, .height, .rawLen, .valid, .threshold, .alpha, .gainLo, .gainHi,
   .minv, .maxv, .k, .count, .kgLo, .kgHi, .kprimeLo, .kprimeHi, .kexp, .fallback, .uLo, .uHi,
   .pdfminLo, .pdfminHi, .pdfmaxLo, .pdfmaxHi, .cdfsumLo, .cdfsumHi]

/-- The register at an offset, none at the reserved offsets 0x078 to 0xFFC (R18, R46). -/
def regAt (a : Nat) : Option RegName := allRegs.find? (fun r => decide (r.offset = a))

/-- The value a register holds. -/
def State.reg (s : State) : RegName → Word
  | .ctrl => s.ctrl
  | .status => s.status
  | .cmd => s.cmd
  | .errinfo => s.errinfo
  | .width => s.width
  | .height => s.height
  | .rawLen => s.rawLen
  | .valid => s.valid
  | .threshold => s.threshold
  | .alpha => s.alpha
  | .gainLo => loHalf s.gain
  | .gainHi => hiHalf s.gain
  | .minv => s.minv
  | .maxv => s.maxv
  | .k => s.k
  | .count => s.count
  | .kgLo => loHalf s.kg
  | .kgHi => hiHalf s.kg
  | .kprimeLo => loHalf s.kprime
  | .kprimeHi => hiHalf s.kprime
  | .kexp => s.kexp
  | .fallback => s.fallback
  | .uLo => loHalf s.u
  | .uHi => hiHalf s.u
  | .pdfminLo => loHalf s.pdfmin
  | .pdfminHi => hiHalf s.pdfmin
  | .pdfmaxLo => loHalf s.pdfmax
  | .pdfmaxHi => hiHalf s.pdfmax
  | .cdfsumLo => loHalf s.cdfsum
  | .cdfsumHi => hiHalf s.cdfsum

/-- The registers whose reads return their value while BUSY = 1: "STATUS and the configuration registers (CTRL, CMD,
WIDTH, HEIGHT, RAW_LEN, THRESHOLD, ALPHA, GAIN_LO, GAIN_HI)" (R182). -/
def RegName.readableBusy : RegName → Bool
  | .ctrl | .status | .cmd | .width | .height | .rawLen | .threshold | .alpha | .gainLo | .gainHi => true
  | _ => false

/-- The registers a host write to which is dropped, and recorded in HOST_VIOL, while BUSY = 1 (R183). -/
def RegName.droppedBusy : RegName → Bool
  | .ctrl | .cmd | .width | .height | .rawLen | .valid | .threshold | .alpha | .gainLo | .gainHi => true
  | _ => false

/-! ### The life of a command (R141, R142, R164) -/

/-- Acceptance of a command word (R141). -/
def State.accept (s : State) (w : Word) : State :=
  { s with cmd := w, status := statusAccepted s.status, errinfo := 0x00000000 }

/-- Completion without error (R142). -/
def State.complete (s : State) : State := { s with status := statusCompleted s.status }

/-- The exception of this block: a stage's error ends the command and is reported in STATUS and ERRINFO. BUSY 0,
DONE 1, ERR 1, ERRCODE the code, ERRINFO the step and the stage (R142, R158, R164). There is no vector and no saved
program counter (60_exceptions.md). -/
def State.raise (s : State) (e : StageError) : State :=
  { s with
    status := statusFailed s.status e.code
    errinfo := (0 : BitVec 16) ++ e.step ++ e.stage }

/-- What stands for the return from an exception: the host's write of v to STATUS, which clears DONE, ERR and HOST_VIOL
where v has a 1 and leaves ERRCODE (R20, R168). -/
def State.acknowledge (s : State) (v : Word) : State := { s with status := statusCleared s.status v }

/-- A host write dropped because BUSY = 1 (R183). -/
def State.violate (s : State) : State := { s with status := statusViolated s.status }

/-- Completion of an illegal command word: no stage runs, ERRCODE 5, ERRINFO the word's bits [7:0] (R159). -/
def State.raiseIllegal (s : State) : State :=
  s.raise { code := .illegalCommand, stage := s.cmd.extractLsb' 0 8, step := 0 }

/-- A stage: it commits a new state, or raises an error and has written nothing (R143). -/
abbrev Stage := State → Except StageError State

/-- Run stages in order, each on the state the one before committed; the first error ends the command, and the commits
before it stay (R144, R145, R164). -/
def runStages : List Stage → State → State × Option StageError
  | [], s => (s, none)
  | stage :: rest, s =>
    match stage s with
    | .ok s' => runStages rest s'
    | .error e => (s, some e)

/-- The engine step of a legal command: run its stages, then complete (R142, R144). -/
def runCommand (stages : List Stage) (s : State) : State :=
  match runStages stages s with
  | (s', none) => s'.complete
  | (s', some e) => s'.raise e

/-! ### Reset (R176) -/

/-- The reset input asserted: every register takes its reset value, every buffer element is unspecified (no byte is
written, and the draws of unwritten bytes are new), and a command in progress is abandoned (R176, S15). The moves
still to come and the last response belong to the outside and stay (assumption 10). -/
def State.resetInput (s : State) : State :=
  { State.reset with moves := s.moves, response := s.response, epoch := s.epoch + 1, draws := s.draws }

end Sys2Proof.Machine
end

