-- ==== Sys2Proof/Machine/Operands.lean ====
section
/-! DEFINITION. The implicit operands of the commands (R75, R76), read from registers and buffers, and the checks that guard them (R85, R160, R161). -/

namespace Sys2Proof.Machine

/-! ### Frame geometry and the checks -/

/-- W: WIDTH as a 32-bit unsigned integer (R7, R22). -/
def State.frameW (s : State) : Nat := s.width.toNat

/-- H: HEIGHT as a 32-bit unsigned integer (R7, R22). -/
def State.frameH (s : State) : Nat := s.height.toNat

/-- N = W·H, the product taken exactly (R7, R76). -/
def State.pixels (s : State) : Nat := s.frameW * s.frameH

/-- The geometry is legal: 1 ≤ W, 1 ≤ H and W·H ≤ MAX_PIXELS (R160). -/
def State.dimsOk (p : Params) (s : State) : Bool :=
  decide (s.frameW ≠ 0) && decide (s.frameH ≠ 0) && decide (s.pixels ≤ p.maxPixels)

/-- `check_dims(stage)` (R160). -/
def checkDims (p : Params) (stage : Byte) (s : State) : Except StageError Unit :=
  if s.dimsOk p then .ok () else .error ⟨.invalidDimensions, stage, 0⟩

/-- The stream length check of the loaders, RAW_LEN against 2·N (R85). -/
def checkStream (stage : Byte) (s : State) : Except StageError Unit :=
  if s.rawLen.toNat < 2 * s.pixels then .error ⟨.ioError, stage, 0⟩
  else if 2 * s.pixels < s.rawLen.toNat then .error ⟨.invalidDimensions, stage, 0⟩
  else .ok ()

/-- The input's valid bit is 1, else SEQUENCE (R161). -/
def checkValid (stage : Byte) (valid : Bool) : Except StageError Unit :=
  if valid then .ok () else .error ⟨.sequence, stage, 0⟩

/-! ### The buffers as operands: elements 0 to N-1, or the 256 bins (R65) -/

/-- RAW[0 .. 2N-1]. -/
def State.rawBytes (s : State) : List Byte := s.bufferBytes .raw (2 * s.pixels)

/-- F16[0 .. N-1]. -/
def State.f16Samples (s : State) : List Half := halvesOfBytes (s.bufferBytes .f16 (2 * s.pixels))

/-- F8IN[0 .. N-1]. -/
def State.f8inPixels (s : State) : List Byte := s.bufferBytes .f8in s.pixels

/-- HIST[0..255]. -/
def State.histBins (s : State) : List Word := wordsOfBytes (s.bufferBytes .hist 1024)

/-- LUT[0..255]. -/
def State.lutTable (s : State) : List Byte := s.bufferBytes .lut 256

/-! ### Scalar operands -/

/-- THRESHOLD as a 32-bit unsigned integer (R25, R76). -/
def State.thresholdValue (s : State) : Nat := s.threshold.toNat

/-- `g = GAIN_HI:GAIN_LO` (R27, R76). -/
def State.gainValue (s : State) : F64 := s.gain

/-- The gain is finite and > 0 (R27, R162). -/
def gainOk (g : F64) : Bool := isfinite g && flt 0 g

end Sys2Proof.Machine
end

