-- ==== Sys2Proof/Machine/Compressor.lean ====
section
/-! DEFINITION. frame16_to_frame8_compressor: COMPRESS (41_compressor.md). -/

namespace Sys2Proof.Machine

/-- The least of a list of samples, 65535 for none (R95, R100). -/
def minSample (xs : List Half) : Nat := xs.foldl (fun m x => min m x.toNat) 65535

/-- The greatest of a list of samples, 0 for none (R95, R100). -/
def maxSample (xs : List Half) : Nat := xs.foldl (fun m x => max m x.toNat) 0

/-- 255.0. -/
def f64_255 : F64 := 0x406FE00000000000

/-- One pixel of a frame that is not flat: the division first, the product by 255 second, each rounded in binary64,
then floor (R95, R97, R98). -/
def compressPixel (minv maxv x : Nat) : Byte :=
  BitVec.ofInt 8 (ffloor (fmul (fdiv (f64OfNat (x - minv)) (f64OfNat (maxv - minv))) f64_255))

/-- The commit of COMPRESS (R95, R101). -/
def commitCompress (pixels : List Byte) (minv maxv : Nat) (flat : Bool) (s : State) : State :=
  { s with
    mem := s.mem.store .f8in pixels
    minv := BitVec.ofNat 32 minv
    maxv := BitVec.ofNat 32 maxv
    fallback := fallbackCompress s.fallback flat
    valid := setBit s.valid 1 true }

/-- Stage COMPRESS (R95, R96). -/
def stageCompress (p : Params) : Stage := fun s => do
  checkDims p 0x03 s
  checkValid 0x03 s.vF16
  let xs := s.f16Samples
  let minv := minSample xs
  let maxv := maxSample xs
  if maxv = minv then
    if s.flatZero then return commitCompress (xs.map fun _ => 0) minv maxv true s
    else throw ⟨.degenerateFrame, 0x03, 0⟩
  else return commitCompress (xs.map fun x => compressPixel minv maxv x.toNat) minv maxv false s

/-- COMPRESS (R95). -/
def execCompress (s : State) : Host.Outcome State Fault Refusal :=
  .next (runCommand [stageCompress Config.params] s)

end Sys2Proof.Machine
end

