-- ==== Sys2Proof/Machine/Histogram.lean ====
section
/-! DEFINITION. The histogram_analyzer unit: HIST (42_histogram.md). -/

namespace Sys2Proof.Machine

/-- |a - b| of two pixels (R103). -/
def absDiff (a b : Byte) : Nat := (a.toNat - b.toNat) + (b.toNat - a.toNat)

/-- The pixels of a frame, each with the pixel two places before it in row-major order (0 for the first two, which
have none) and its index. -/
def withLeft2 (pixels : List Byte) : List ((Byte × Byte) × Nat) := (pixels.zip (0 :: 0 :: pixels)).zipIdx

/-- The back-differences of a frame of width w, each beside its pixel: the pixel's own value in columns 0 and 1, else
the absolute difference with the pixel two columns to its left in the same row (R103, R104). -/
def backDiffs (w : Nat) (pixels : List Byte) : List (Byte × Nat) :=
  (withLeft2 pixels).map fun e =>
    (e.1.1, if e.2 % w < 2 then e.1.1.toNat else absDiff e.1.1 e.1.2)

/-- K: the sum of every back-difference (R105). -/
def histK (diffs : List (Byte × Nat)) : Nat := (diffs.map (·.2)).sum

/-- The pixels whose back-difference exceeds the threshold, a strict test (R106). -/
def histCounted (threshold : Nat) (diffs : List (Byte × Nat)) : List Byte :=
  (diffs.filter fun e => decide (threshold < e.2)).map (·.1)

/-- The 256 bins: how many counted pixels have each value (R103, R106). -/
def histBinsOf (counted : List Byte) : List Nat :=
  (List.range 256).map fun v => counted.countP fun b => b.toNat == v

/-- The commit of HIST (R103, R110). -/
def commitHist (bins : List Nat) (k count : Nat) (s : State) : State :=
  { s with
    mem := s.mem.store .hist (bins.flatMap fun n => wordElemBytes (BitVec.ofNat 32 n))
    k := BitVec.ofNat 32 k
    count := BitVec.ofNat 32 count
    valid := setBit s.valid 2 true }

/-- Stage HIST (R103). -/
def stageHist (p : Params) : Stage := fun s => do
  checkDims p 0x04 s
  checkValid 0x04 s.vF8in
  let diffs := backDiffs s.frameW s.f8inPixels
  let counted := histCounted s.thresholdValue diffs
  return commitHist (histBinsOf counted) (histK diffs) counted.length s

/-- HIST (R103). -/
def execHist (s : State) : Host.Outcome State Fault Refusal :=
  .next (runCommand [stageHist Config.params] s)

end Sys2Proof.Machine
end

