-- ==== Sys2Proof/Machine/Loader.lean ====
section
/-! DEFINITION. frame_loader_normalizer: LOAD_BE and LOAD_NATIVE (40_loader.md). -/

namespace Sys2Proof.Machine

/-- A big-endian sample normalised: the word's first byte is the high one; read as a signed 16-bit integer s,
t = s + 8192 exactly, and t clamped to [0, 16383] (R86, R87). -/
def loadBeSample (hi lo : Byte) : Half :=
  let t : Int := (hi ++ lo : Half).toInt + 8192
  if t ≤ 0 then 0 else if 16383 < t then 16383 else BitVec.ofInt 16 t

/-- A native-order sample: the first byte is the low one, unsigned, without offset, clamped to 16383 under
NATIVE_CLAMP (R90, R91). -/
def loadNativeSample (p : Params) (lo hi : Byte) : Half :=
  let u : Half := hi ++ lo
  if p.nativeClamp then (if 16383 < u.toNat then 16383 else u) else u

/-- The samples of a stream, two bytes each, in stream order (R36, R57). -/
def samplesOf (sample : Byte → Byte → Half) : List Byte → List Half
  | b0 :: b1 :: bs => sample b0 b1 :: samplesOf sample bs
  | _ => []

/-- The commit of a loader: F16[0 .. N-1] and V_F16, nothing else (R86, R90, R92). -/
def commitF16 (samples : List Half) (s : State) : State :=
  { s with
    mem := s.mem.store .f16 (samples.flatMap halfBytes)
    valid := setBit s.valid 0 true }

/-- Stage LOAD_BE (R86). -/
def stageLoadBe (p : Params) : Stage := fun s => do
  checkDims p 0x01 s
  checkStream 0x01 s
  return commitF16 (samplesOf loadBeSample s.rawBytes) s

/-- Stage LOAD_NATIVE (R90). -/
def stageLoadNative (p : Params) : Stage := fun s => do
  checkDims p 0x02 s
  checkStream 0x02 s
  return commitF16 (samplesOf (loadNativeSample p) s.rawBytes) s

/-- LOAD_BE (R86). -/
def execLoadBe (s : State) : Host.Outcome State Fault Refusal :=
  .next (runCommand [stageLoadBe Config.params] s)

/-- LOAD_NATIVE (R90). -/
def execLoadNative (s : State) : Host.Outcome State Fault Refusal :=
  .next (runCommand [stageLoadNative Config.params] s)

end Sys2Proof.Machine
end

