-- ==== Sys2Proof/Machine/Remap.lean ====
section
/-! DEFINITION. lut_remap_unit: REMAP (44_lut_remap.md). -/

namespace Sys2Proof.Machine

/-- The table entry a pixel selects: "an 8-bit index into a 256-entry table" (R136). -/
def lutEntry (lut : List Byte) (v : Byte) : Byte := lut.getD v.toNat 0

/-- The commit of REMAP (R136, R140). -/
def commitRemap (pixels : List Byte) (s : State) : State :=
  { s with
    mem := s.mem.store .f8out pixels
    valid := setBit s.valid 4 true }

/-- Stage REMAP (R136). -/
def stageRemap (p : Params) : Stage := fun s => do
  checkDims p 0x06 s
  checkValid 0x06 (s.vF8in && s.vTone)
  let lut := s.lutTable
  return commitRemap (s.f8inPixels.map (lutEntry lut)) s

/-- REMAP (R136). -/
def execRemap (s : State) : Host.Outcome State Fault Refusal :=
  .next (runCommand [stageRemap Config.params] s)

end Sys2Proof.Machine
end

