-- ==== Sys2Proof/Machine/ToneCurve.lean ====
section
/-! DEFINITION. adaptive_tone_curve_engine: TONE (43_tone_curve.md). Every floating-point operation is one of R10, in the order the rules write them. -/

namespace Sys2Proof.Machine

/-- 1.0. -/
def f64_1 : F64 := 0x3FF0000000000000

/-- 0.5. -/
def f64_half : F64 := 0x3FE0000000000000

/-- 256.0. -/
def f64_256 : F64 := 0x4070000000000000

/-- 255.0, the output range of Step 7. -/
def toneScale : F64 := 0x406FE00000000000

/-- The results of Step 2: kg, k', e and whether the fallback was taken. -/
structure Blend where
  kg : F64
  kprime : F64
  e : Int
  fallback : Bool
  deriving DecidableEq, Repr

/-- Step 2: `kg`, and the least power of two not below it divided out (R111 to R113). The error is at step 2. -/
def toneBlend (kFallback : Bool) (k : Nat) (g : F64) : Except StageError Blend :=
  let kg := fmul (f64OfNat k) g
  if feq kg 0 then
    if kFallback then .ok ⟨kg, 0, 0, true⟩ else .error ⟨.degenerateStatistics, 0x05, 2⟩
  else if isinf kg then .error ⟨.degenerateStatistics, 0x05, 2⟩
  else .ok ⟨kg, ldexp kg (-(leastExponent kg)), leastExponent kg, false⟩

/-- Step 3's `round` under MODHIST_ROUND (R117). -/
def modhistRound (p : Params) (x : F64) : Int :=
  match p.modhistRound with
  | .halfAway => roundHalfAway x
  | .halfEven => roundHalfEven x

/-- `u = count / 256.0` (R115). -/
def toneU (count : Nat) : F64 := fdiv (f64OfNat count) f64_256

/-- Step 3: the modified histogram (R116). -/
def toneModhist (p : Params) (kprime u : F64) (hist : List Nat) : List Nat :=
  let a := fsub f64_1 kprime
  hist.map fun h => (modhistRound p (fadd (fmul a u) (fmul kprime (f64OfNat h)))).toNat

/-- Step 4: the PDF (R119). -/
def tonePdf (n : Nat) (mhist : List Nat) : List F64 := mhist.map fun m => fdiv (f64OfNat m) (f64OfNat n)

/-- The least of two values. -/
def fmin (a b : F64) : F64 := if flt b a then b else a

/-- The greatest of two values. -/
def fmax (a b : F64) : F64 := if flt a b then b else a

/-- `pdf_min`: the least element (R120). -/
def pdfMin (pdf : List F64) : F64 := pdf.foldl fmin (pdf.headD 0)

/-- `pdf_max`: the greatest element (R120). -/
def pdfMax (pdf : List F64) : F64 := pdf.foldl fmax (pdf.headD 0)

/-- Step 5: the weighted PDF, and whether the fallback was taken (R121, R122). The error is at step 5. -/
def toneWeight (pdfFallback : Bool) (pmin pmax : F64) (pdf : List F64) : Except StageError (List F64 × Bool) :=
  if feq pmax pmin then
    if pdfFallback then .ok (pdf, true) else .error ⟨.degenerateStatistics, 0x05, 5⟩
  else
    let dn := fsub pmax pmin
    .ok (pdf.map fun x => fmul pmax (fsqrt (fdiv (fsub x pmin) dn)), false)

/-- The running sums from c on, one rounding for each addition (R124). -/
def cumulate : F64 → List F64 → List F64
  | _, [] => []
  | c, x :: xs => fadd c x :: cumulate (fadd c x) xs

/-- `C[0..255]` (R124). -/
def toneCumulative (pdfw : List F64) : List F64 := cumulate 0 pdfw

/-- `S`: the last running sum (R125). -/
def toneSum (cum : List F64) : F64 := cum.getLastD 0

/-- The conversion of Step 7 under TABLE_CVT (R127). -/
def tableCvt (p : Params) (x : F64) : Int :=
  match p.tableCvt with
  | .nearestEven => roundHalfEven x
  | .nearestAway => roundHalfAway x
  | .truncate => ftrunc x

/-- Step 7's real value before the conversion: 255·(CDFW − 0.5·PDFW), clamped to [0, 255] (R127). -/
def tableReal (cdfw pdfw : F64) : F64 :=
  let x := fmul toneScale (fsub cdfw (fmul f64_half pdfw))
  if flt x 0 then 0 else if flt toneScale x then toneScale else x

/-- Step 7's entry for an intensity i ≥ 1 (R127). -/
def tableEntry (p : Params) (cdfw pdfw : F64) : Byte := BitVec.ofInt 8 (tableCvt p (tableReal cdfw pdfw))

/-- Step 7: the table. Entry 0 is not the formula's: it is 0, or a copy of entry 1 under TABLE0_COPY (R127, R128). -/
def toneTable (p : Params) (copy0 : Bool) (cdfw pdfw : List F64) : List Byte :=
  let t := (List.zipWith (tableEntry p) cdfw pdfw).drop 1
  (if copy0 then t.headD 0 else 0) :: t

/-- What TONE commits (R130). -/
structure ToneResult where
  blend : Blend
  u : F64
  mhist : List Nat
  pdf : List F64
  pdfmin : F64
  pdfmax : F64
  pdfw : List F64
  pdfFallback : Bool
  cdfsum : F64
  cdfw : List F64
  lut : List Byte
  deriving DecidableEq, Repr

/-- Steps 2 to 7 (R111 to R128) on the statistics K, COUNT and HIST of a frame of n pixels. -/
def toneSteps (p : Params) (s : State) (n k count : Nat) (hist : List Nat) : Except StageError ToneResult := do
  let b ← toneBlend s.kFallback k s.gainValue
  let u := toneU count
  let mhist := toneModhist p b.kprime u hist
  let pdf := tonePdf n mhist
  let pmin := pdfMin pdf
  let pmax := pdfMax pdf
  let w ← toneWeight s.pdfFallback pmin pmax pdf
  let cum := toneCumulative w.1
  let sum := toneSum cum
  if feq sum 0 then throw ⟨.degenerateStatistics, 0x05, 6⟩
  else
    let cdfw := cum.map fun c => fdiv c sum
    return ⟨b, u, mhist, pdf, pmin, pmax, w.1, w.2, sum, cdfw, toneTable p s.table0Copy cdfw w.1⟩

/-- The buffers TONE commits: MHIST, PDF, PDFW, CDFW and LUT, all 256 elements of each (R131). -/
def toneStore (r : ToneResult) (m : Memory) : Memory :=
  ((((m.store .mhist (r.mhist.flatMap fun n => wordElemBytes (BitVec.ofNat 32 n))).store .pdf
    (r.pdf.flatMap dwordBytes)).store .pdfw (r.pdfw.flatMap dwordBytes)).store .cdfw
    (r.cdfw.flatMap dwordBytes)).store .lut r.lut

/-- The commit of TONE (R130, R131). -/
def commitTone (r : ToneResult) (s : State) : State :=
  { s with
    mem := toneStore r s.mem
    kg := r.blend.kg
    kprime := r.blend.kprime
    kexp := BitVec.ofInt 32 r.blend.e
    u := r.u
    pdfmin := r.pdfmin
    pdfmax := r.pdfmax
    cdfsum := r.cdfsum
    fallback := fallbackTone s.fallback r.blend.fallback r.pdfFallback
    valid := setBit s.valid 3 true }

/-- CONFIG unless the gain is finite and > 0 (R162). -/
def checkGain (stage : Byte) (g : F64) : Except StageError Unit :=
  if gainOk g then .ok () else .error ⟨.config, stage, 0⟩

/-- Stage TONE (R130, R132). -/
def stageTone (p : Params) : Stage := fun s => do
  checkDims p 0x05 s
  checkValid 0x05 s.vStats
  checkGain 0x05 s.gainValue
  let r ← toneSteps p s s.pixels s.k.toNat s.count.toNat (s.histBins.map fun w => w.toNat)
  return commitTone r s

/-- TONE (R130). -/
def execTone (s : State) : Host.Outcome State Fault Refusal :=
  .next (runCommand [stageTone Config.params] s)

end Sys2Proof.Machine
end

