-- ==== Sys2Proof/Machine/Sequencing.lean ====
section
/-! DEFINITION. The commands without pixel work, NOP and INVALIDATE, and the composite commands, ENHANCE and PIPELINE (45_sequencing.md). -/

namespace Sys2Proof.Machine

/-- NOP: no stage runs and nothing is checked (R147). -/
def execNop (s : State) : Host.Outcome State Fault Refusal := .next (runCommand [] s)

/-- Stage INVALIDATE: every VALID bit to 0 (R148). -/
def stageInvalidate : Stage := fun s => .ok { s with valid := 0x00000000 }

/-- INVALIDATE (R148). -/
def execInvalidate (s : State) : Host.Outcome State Fault Refusal := .next (runCommand [stageInvalidate] s)

/-- ENHANCE: HIST, TONE, REMAP (R151). -/
def execEnhance (s : State) : Host.Outcome State Fault Refusal :=
  .next (runCommand [stageHist Config.params, stageTone Config.params, stageRemap Config.params] s)

/-- PIPELINE: LOAD_BE, COMPRESS, HIST, TONE, REMAP (R153). -/
def execPipeline (s : State) : Host.Outcome State Fault Refusal :=
  .next (runCommand [stageLoadBe Config.params, stageCompress Config.params, stageHist Config.params,
    stageTone Config.params, stageRemap Config.params] s)

end Sys2Proof.Machine
end

