-- ==== Sys2Proof/Machine/Dispatch.lean ====
section
/-! DEFINITION. The meaning of each command, one arm for each constructor of Instr. -/

namespace Sys2Proof.Machine

def exec (i : Instr) (s : State) : Host.Outcome State Fault Refusal :=
  match i with
  | .nop => Sys2Proof.Machine.execNop s
  | .loadBe => Sys2Proof.Machine.execLoadBe s
  | .loadNative => Sys2Proof.Machine.execLoadNative s
  | .compress => Sys2Proof.Machine.execCompress s
  | .hist => Sys2Proof.Machine.execHist s
  | .tone => Sys2Proof.Machine.execTone s
  | .remap => Sys2Proof.Machine.execRemap s
  | .enhance => Sys2Proof.Machine.execEnhance s
  | .pipeline => Sys2Proof.Machine.execPipeline s
  | .invalidate => Sys2Proof.Machine.execInvalidate s

end Sys2Proof.Machine
end

