-- ==== Sys2Proof/Decode.lean ====
section
/-! DEFINITION. The command decoder and encoder (R72 to R74, R78, R79, R84), and the byte order of a 32-bit word (R51). -/

namespace Sys2Proof

/-- Why a command word is illegal (R74, R78). -/
inductive DecodeError where
  /-- Not the four bytes of one command word (R79). -/
  | wrongLength
  /-- RESV, bits [31:8], is not 0. -/
  | reservedNonzero
  /-- RESV is 0 and OPCODE is above 0x09. -/
  | unknownOpcode
  deriving DecidableEq, Repr

/-- The four bytes of a word, least significant first: byte j is data bits [8j+7 : 8j] (R51). -/
def wordBytes (w : Word) : List Byte :=
  [w.extractLsb' 0 8, w.extractLsb' 8 8, w.extractLsb' 16 8, w.extractLsb' 24 8]

/-- The word whose bytes are b0 (least significant) to b3 (R51). -/
def wordOfBytes (b0 b1 b2 b3 : Byte) : Word := b3 ++ b2 ++ b1 ++ b0

/-- OPCODE, bits [7:0] of a command word (R72). -/
def opcodeField (w : Word) : Byte := w.extractLsb' 0 8

/-- RESV, bits [31:8] of a command word (R72). -/
def resvField (w : Word) : BitVec 24 := w.extractLsb' 8 24

/-- The row of the opcode map with a given OPCODE (R73). -/
def instrOfOpcode (op : Byte) : Option Instr :=
  match op.toNat with
  | 0 => some .nop
  | 1 => some .loadBe
  | 2 => some .loadNative
  | 3 => some .compress
  | 4 => some .hist
  | 5 => some .tone
  | 6 => some .remap
  | 7 => some .enhance
  | 8 => some .pipeline
  | 9 => some .invalidate
  | _ => none

/-- A word is legal if and only if `w[31:8] = 0` and `w[7:0] ≤ 0x09` (R74). -/
def decodeWord (w : Word) : Except DecodeError Instr :=
  if resvField w ≠ 0 then .error .reservedNonzero
  else
    match instrOfOpcode (opcodeField w) with
    | some i => .ok i
    | none => .error .unknownOpcode

/-- The decoder: total on any bytes, rejecting by name. A command is exactly one 32-bit word (R79). -/
def decode : List Byte → Except DecodeError Instr
  | [b0, b1, b2, b3] => decodeWord (wordOfBytes b0 b1 b2 b3)
  | _ => .error .wrongLength

/-- The command word of a command: OPCODE in bits [7:0], RESV 0 (R72, R73). -/
def encode (i : Instr) : Word := (0 : BitVec 24) ++ i.opcode

/-- The instruction the decoder reads from a table row's bits, stored as the CMD register holds them: one word,
little-endian in its bytes (R51, R72), every bit above `nbits` zero. -/
def decodeTableWord (nbits w : Nat) : Option Instr :=
  match decode (wordBytes (BitVec.ofNat 32 (w % 2 ^ nbits))) with
  | .ok i => some i
  | .error _ => none

end Sys2Proof
end

