-- ==== Sys2Proof/Machine/HostBus.lean ====
section
/-! DEFINITION. The host bus: what a read returns and what a write does, idle and busy (20_memory.md, 70_reset_and_hazards.md R182 to R186). -/

namespace Sys2Proof.Machine

/-- The block decodes the offsets 0x0000_0000 to 0x04FF_FFFF (R50). -/
def offsetDecoded (a : Nat) : Bool := decide (a < 0x05000000)

/-- An access the block answers OKAY: aligned, and 4 bytes wide in the register block (R52, R53). -/
def accessOkay (size : AccessSize) (a : Nat) : Bool :=
  decide (a % size.bytes = 0) && (decide (0x1000 ≤ a) || decide (size = .word))

/-- The response ERROR: "a misaligned write changes nothing, a misaligned read returns 0" (R52, R53). -/
def State.respondError (s : State) (rdata : Option Word) : State := { s with response := some ⟨false, rdata⟩ }

/-- The response OKAY. -/
def State.respondOkay (s : State) (rdata : Option Word) : State := { s with response := some ⟨true, rdata⟩ }

/-- The data word of the bytes b0, b1, ... in lanes 0, 1, ..., the other lanes 0 (R51; assumption 9). -/
def laneWord (bs : List Byte) : Word := wordOfBytes (bs.getD 0 0) (bs.getD 1 0) (bs.getD 2 0) (bs.getD 3 0)

/-! ### Reads -/

/-- A host read of a register while BUSY = 0 (R18, R46). -/
def readRegIdle (s : State) (a : Nat) : Word :=
  match regAt a with
  | some r => s.reg r
  | none => 0

/-- A host read of a register while BUSY = 1: the value, 0 at a reserved offset, or the draw (R46, R182, R184).

DESIGN CHOICE (log entry 2): the draw covers all 32 bits of the register, also the reserved bits of ERRINFO, VALID,
FALLBACK, MINV and MAXV. R46 and S7 have reserved bits read as 0 and be no draw, R184 and S3 have the whole read be one
32-bit draw, and the spec does not say which of the two holds for a reserved bit of such a register. -/
def readRegBusy (s : State) (draw : Word) (a : Nat) : Word :=
  match regAt a with
  | some r => if r.readableBusy then s.reg r else draw
  | none => 0

/-- The byte a host read finds in a window while BUSY = 0: storage, or 0 at a reserved offset or beyond a window's
capacity (R57 to R60). -/
def readByteIdle (p : Params) (s : State) (a : Nat) : Byte :=
  match bufferAt p a with
  | some _ => s.mem.byteAt s.epoch a
  | none => 0

/-- The byte a host read finds in a window while BUSY = 1: the draw's, or 0 where there is no storage (R60, R184). -/
def readByteBusy (p : Params) (draw : Byte) (a : Nat) : Byte :=
  match bufferAt p a with
  | some _ => draw
  | none => 0

/-- The data of an aligned read while BUSY = 0 (R54). -/
def readIdle (p : Params) (s : State) (size : AccessSize) (a : Nat) : Word :=
  if a < 0x1000 then readRegIdle s a
  else laneWord ((List.range size.bytes).map fun j => readByteIdle p s (a + j))

/-- The data of an aligned read while BUSY = 1, with a draw (R182, R184). -/
def readBusy (p : Params) (s : State) (draw : Word) (size : AccessSize) (a : Nat) : Word :=
  if a < 0x1000 then readRegBusy s draw a
  else laneWord ((List.range size.bytes).map fun j => readByteBusy p ((wordBytes draw).getD j 0) (a + j))

/-- A host read with response OKAY. It changes no state of the block (R61); while BUSY = 1 its draw is a fresh one (R184). -/
def hostRead (p : Params) (s : State) (size : AccessSize) (a : Nat) : State :=
  if s.busy then
    { s.respondOkay (some (readBusy p s (Config.busyRead s.draws) size a)) with draws := s.draws + 1 }
  else s.respondOkay (some (readIdle p s size a))

/-! ### Writes -/

/-- A host write to WIDTH or HEIGHT also clears every bit of VALID (R22, R185). -/
def State.setGeometry (s : State) (width height : Word) : State :=
  { s with width := width, height := height, valid := 0x00000000 }

/-- A host write of v to a register while BUSY = 0 (R18 to R27, R46, R62). Writes to RO registers are ignored. -/
def writeRegIdle (s : State) (v : Word) : RegName → State
  | .ctrl => { s with ctrl := v &&& ctrlMask }
  | .status => s.acknowledge v
  | .cmd => s.accept v
  | .width => s.setGeometry v s.height
  | .height => s.setGeometry s.width v
  | .rawLen => { s with rawLen := v }
  | .valid => { s with valid := validWritten s.valid v }
  | .threshold => { s with threshold := v }
  | .alpha => { s with alpha := v }
  | .gainLo => { s with gain := hiHalf s.gain ++ v }
  | .gainHi => { s with gain := v ++ loHalf s.gain }
  | .errinfo | .minv | .maxv | .k | .count | .kgLo | .kgHi | .kprimeLo | .kprimeHi | .kexp | .fallback
  | .uLo | .uHi | .pdfminLo | .pdfminHi | .pdfmaxLo | .pdfmaxHi | .cdfsumLo | .cdfsumHi => s

/-- A host write of v to a register while BUSY = 1: STATUS acts normally, a write to a register that holds
configuration, a command or VALID is dropped, any other is ignored (R46, R62, R183). -/
def writeRegBusy (s : State) (v : Word) (r : RegName) : State :=
  if r = .status then s.acknowledge v else if r.droppedBusy then s.violate else s

/-- A host write to the register block; reserved offsets ignore it (R46). -/
def writeReg (s : State) (a : Nat) (v : Word) : State :=
  match regAt a with
  | some r => if s.busy then writeRegBusy s v r else writeRegIdle s v r
  | none => s

/-- The offset is one of a host-writable buffer element, RAW or F8IN below capacity (R56, R60). -/
def hostWritableAt (p : Params) (a : Nat) : Bool :=
  match bufferAt p a with
  | some b => b.hostWritable
  | none => false

/-- Store the bytes bs at the offsets from a on, those at offsets that are not host-writable ignored (R56, R60). -/
def storeHostBytes (p : Params) : List Byte → Nat → Memory → Memory
  | [], _, m => m
  | b :: bs, a, m => storeHostBytes p bs (a + 1) (if hostWritableAt p a then m.write a [b] else m)

/-- A host write to a buffer window: stored while BUSY = 0, and while BUSY = 1 dropped and recorded where it would have
stored a byte (R54, R183). -/
def writeWindow (p : Params) (s : State) (size : AccessSize) (a : Nat) (v : Word) : State :=
  let bs := (wordBytes v).take size.bytes
  if s.busy then
    if (List.range size.bytes).any fun j => hostWritableAt p (a + j) then s.violate else s
  else { s with mem := storeHostBytes p bs a s.mem }

/-- A host write with response OKAY (R54, R62). -/
def hostWrite (p : Params) (s : State) (size : AccessSize) (a : Nat) (v : Word) : State :=
  (if a < 0x1000 then writeReg s a v else writeWindow p s size a v).respondOkay none

/-! ### An access -/

/-- A host access (R50 to R54). One that starts outside the decoded offsets is outside the block (R50, S9). -/
def hostAccess (p : Params) (s : State) : Access → Host.Outcome State Fault Refusal
  | .read size a =>
    if offsetDecoded a then
      if accessOkay size a then .next (hostRead p s size a) else .next (s.respondError (some 0))
    else .refused .outsideBlock
  | .write size a v =>
    if offsetDecoded a then
      if accessOkay size a then .next (hostWrite p s size a v) else .next (s.respondError none)
    else .refused .outsideBlock

end Sys2Proof.Machine
end

