-- ==== Sys2Proof/Machine/Engine.lean ====
section
/-! DEFINITION. The engine's turn, which runs the command in CMD, and the choice of the next move (R15, R142, R190). -/

namespace Sys2Proof.Machine

/-- The engine step (R142, R144): the command word in CMD is decoded; a legal command is executed to its completion,
an illegal word completes with ILLEGAL_COMMAND. -/
def engineStep (s : State) : Host.Outcome State Fault Refusal :=
  match decode (wordBytes s.cmd) with
  | .ok i => exec i s
  | .error _ => .next s.raiseIllegal

/-- A turn of the engine: its step is enabled exactly when BUSY = 1, and otherwise the block is idle (R15, R142, R175). -/
def engineTurn (s : State) : Host.Outcome State Fault Refusal :=
  if s.busy then engineStep s else .next s

/-- One move of the machine (R15, R50, R176). A command is one step (assumption 12). -/
def performMove (s : State) : Move → Host.Outcome State Fault Refusal
  | .access a => hostAccess Config.params s a
  | .engine => engineTurn s
  | .reset => .next s.resetInput

/-- The next move is the first of those still to come. When none is left, the engine has the turn: it is weakly fair,
so an accepted command is completed (R190; assumption 4). -/
def advance (s : State) : Host.Outcome State Fault Refusal :=
  match s.moves with
  | [] => engineTurn s
  | m :: rest => performMove { s with moves := rest } m

/-- The state in which the host's CMD write of w has been accepted (R141) and the engine has the next turn. -/
def State.withCommand (s : State) (w : Word) : State :=
  let s' := s.accept w
  { s' with moves := .engine :: s'.moves }

end Sys2Proof.Machine
end

