-- ==== Sys2Proof/Machine/Step.lean ====
section
/-! DEFINITION. One step of the machine, and how a command word is placed where the next step runs it. -/

namespace Sys2Proof.Machine

/-- One step: the next move of the host, the engine or the reset input. -/
def step (s : State) : Host.Outcome State Fault Refusal := advance s

/-- The state whose next step runs the command word w of `nbits` bits: the word is in CMD, accepted (R141), and the
engine has the next turn. The block fetches nothing (R17); a command word only ever stands in CMD by the acceptance of
a host's CMD write (assumption 5). -/
def State.withFetchWord (s : State) (nbits w : Nat) : State := s.withCommand (BitVec.ofNat 32 (w % 2 ^ nbits))

end Sys2Proof.Machine
end

