-- ==== Sys2Proof/Safety.lean ====
section
/-! DEFINITION. The terms the statements use: the buffers element by element, the formulas of the spec pixel by pixel and bin by bin, the states a command ends in, the invariants of the block, and what a safe run is. -/

namespace Sys2Proof.Machine

/-! ### The buffers, element by element (R57 to R59) -/

/-- The storage byte at an offset. -/
def State.byteAt (s : State) (a : Nat) : Byte := s.mem.byteAt s.epoch a

/-- The four bytes at an offset as a little-endian word (R51, R59). -/
def State.wordAt (s : State) (a : Nat) : Word := s.byteAt (a + 3) ++ s.byteAt (a + 2) ++ s.byteAt (a + 1) ++ s.byteAt a

/-- The eight bytes at an offset: bits [31:0] at +0, bits [63:32] at +4 (R59). -/
def State.dwordAt (s : State) (a : Nat) : DWord := s.wordAt (a + 4) ++ s.wordAt a

/-- RAW[j] (R57). -/
def State.rawAt (s : State) (j : Nat) : Byte := s.byteAt (0x01000000 + j)

/-- F16[i] (R58). -/
def State.f16At (s : State) (i : Nat) : Nat :=
  (s.byteAt (0x02000000 + 2 * i + 1) ++ s.byteAt (0x02000000 + 2 * i)).toNat

/-- F8IN[i] (R57). -/
def State.f8inAt (s : State) (i : Nat) : Nat := (s.byteAt (0x03000000 + i)).toNat

/-- F8OUT[i] (R57). -/
def State.f8outAt (s : State) (i : Nat) : Nat := (s.byteAt (0x04000000 + i)).toNat

/-- HIST[v] (R59). -/
def State.histAt (s : State) (v : Nat) : Nat := (s.wordAt (0x00001000 + 4 * v)).toNat

/-- MHIST[i] (R59). -/
def State.mhistAt (s : State) (i : Nat) : Nat := (s.wordAt (0x00001400 + 4 * i)).toNat

/-- PDF[i] (R59). -/
def State.pdfAt (s : State) (i : Nat) : F64 := s.dwordAt (0x00001800 + 8 * i)

/-- PDFW[i] (R59). -/
def State.pdfwAt (s : State) (i : Nat) : F64 := s.dwordAt (0x00002000 + 8 * i)

/-- CDFW[i] (R59). -/
def State.cdfwAt (s : State) (i : Nat) : F64 := s.dwordAt (0x00002800 + 8 * i)

/-- LUT[i] (R59). -/
def State.lutAt (s : State) (i : Nat) : Nat := (s.byteAt (0x00003000 + i)).toNat

/-! ### The formulas of the spec, pixel by pixel and bin by bin -/

/-- 1 ≤ W, 1 ≤ H and W·H ≤ MAX_PIXELS, with the default MAX_PIXELS (R6, R160). -/
abbrev State.GeometryLegal (s : State) : Prop :=
  1 ≤ s.width.toNat ∧ 1 ≤ s.height.toNat ∧ s.width.toNat * s.height.toNat ≤ 327680

/-- The back-difference of pixel (r, c) of F8IN (R103, R104). -/
def State.backDiffAt (s : State) (r c : Nat) : Nat :=
  if c < 2 then s.f8inAt (r * s.width.toNat + c)
  else ((s.f8inAt (r * s.width.toNat + c) : Int) - (s.f8inAt (r * s.width.toNat + c - 2) : Int)).natAbs

/-- The sum over the pixels (r, c) of the frame. -/
def State.overFrame (s : State) (f : Nat → Nat → Nat) : Nat :=
  ((List.range s.height.toNat).map fun r => ((List.range s.width.toNat).map fun c => f r c).sum).sum

/-- `k`: the sum of all back-differences (R103, R105). -/
def State.frameK (s : State) : Nat := s.overFrame s.backDiffAt

/-- `count`: the number of pixels whose back-difference exceeds THRESHOLD (R103, R106). -/
def State.frameCount (s : State) : Nat :=
  s.overFrame fun r c => if s.threshold.toNat < s.backDiffAt r c then 1 else 0

/-- `h[v]`: the number of those pixels that have the value v (R103, R106). -/
def State.frameHist (s : State) (v : Nat) : Nat :=
  s.overFrame fun r c =>
    if s.threshold.toNat < s.backDiffAt r c ∧ s.f8inAt (r * s.width.toNat + c) = v then 1 else 0

/-- The 16-bit word of a big-endian sample: RAW[2i]:RAW[2i+1] (R86). -/
def State.sampleBE (s : State) (i : Nat) : Nat := (s.rawAt (2 * i) ++ s.rawAt (2 * i + 1)).toNat

/-- The 16-bit word of a native-order sample: RAW[2i+1]:RAW[2i] (R90). -/
def State.sampleNative (s : State) (i : Nat) : Nat := (s.rawAt (2 * i + 1) ++ s.rawAt (2 * i)).toNat

/-- The closed form of LOAD_BE for a sample's word w (R88). -/
def loadBeClosed (w : Nat) : Nat :=
  if w ≤ 0x1FFF then w + 8192 else if w ≤ 0x7FFF then 16383 else if w ≤ 0xE000 then 0 else w - 0xE000

/-- `kg` of TONE on the statistics in K and GAIN (R111). -/
def State.toneKg (s : State) : F64 := fmul (f64OfNat s.k.toNat) s.gain

/-- `k'` of TONE: 0 on the Step 2 fallback (R112, R113). -/
def State.toneKprime (s : State) : F64 := if feq s.toneKg 0 then 0 else ldexp s.toneKg (-(leastExponent s.toneKg))

/-- `e` of TONE: 0 on the Step 2 fallback (R112, R113). -/
def State.toneExponent (s : State) : Int := if feq s.toneKg 0 then 0 else leastExponent s.toneKg

/-- `u` of TONE (R115). -/
def State.toneUAt (s : State) : F64 := fdiv (f64OfNat s.count.toNat) 0x4070000000000000

/-- `mh[i]` of TONE under the default MODHIST_ROUND (R116, R117). -/
def State.toneMh (s : State) (i : Nat) : Nat :=
  (roundHalfAway (fadd (fmul (fsub 0x3FF0000000000000 s.toneKprime) s.toneUAt)
    (fmul s.toneKprime (f64OfNat (s.histAt i))))).toNat

/-- `p[i]` of TONE (R119). -/
def State.toneP (s : State) (i : Nat) : F64 :=
  fdiv (f64OfNat (s.toneMh i)) (f64OfNat (s.width.toNat * s.height.toNat))

/-- Bin `lo` holds the least and bin `hi` the greatest element of p (R120). -/
abbrev State.ToneExtremes (s : State) (lo hi : Nat) : Prop :=
  lo < 256 ∧ hi < 256 ∧ (∀ i < 256, flt (s.toneP i) (s.toneP lo) = false) ∧
    ∀ i < 256, flt (s.toneP hi) (s.toneP i) = false

/-- `pw[i]` of TONE, pdf_min and pdf_max being p[lo] and p[hi] (R121, R122). -/
def State.tonePw (s : State) (lo hi i : Nat) : F64 :=
  if feq (s.toneP hi) (s.toneP lo) then s.toneP i
  else fmul (s.toneP hi) (fsqrt (fdiv (fsub (s.toneP i) (s.toneP lo)) (fsub (s.toneP hi) (s.toneP lo))))

/-- `cum[i]`: the running sum of x[0], ..., x[i] in increasing order, from +0.0 (R124). -/
def runningSum (x : Nat → F64) : Nat → F64
  | 0 => fadd 0 (x 0)
  | i + 1 => fadd (runningSum x i) (x (i + 1))

/-- `S` of TONE (R125). -/
def State.toneS (s : State) (lo hi : Nat) : F64 := runningSum (s.tonePw lo hi) 255

/-- `cdf[i]` of TONE (R126). -/
def State.toneCdf (s : State) (lo hi i : Nat) : F64 := fdiv (runningSum (s.tonePw lo hi) i) (s.toneS lo hi)

/-- Step 7's x at i, before the clamp (R127). -/
def State.toneX (s : State) (lo hi i : Nat) : F64 :=
  fmul 0x406FE00000000000 (fsub (s.toneCdf lo hi i) (fmul 0x3FE0000000000000 (s.tonePw lo hi i)))

/-- `t[i]` of TONE for i ≥ 1 under the default TABLE_CVT: 0 below 0, 255 above 255, else rounded to nearest even (R127). -/
def State.toneEntry (s : State) (lo hi i : Nat) : Int :=
  if flt (s.toneX lo hi i) 0 then 0
  else if flt 0x406FE00000000000 (s.toneX lo hi i) then 255
  else roundHalfEven (s.toneX lo hi i)

/-! ### How a command ends -/

/-- STATUS of a command that ended without error: BUSY 0, DONE 1, the rest as it was (R142). -/
def completedStatus (st : Word) : Word := (st &&& 0xFFFFFFFE) ||| 0x00000002

/-- STATUS of a command that ended with an error: BUSY 0, DONE 1, ERR 1, ERRCODE the code, the rest as it was (R142). -/
def failedStatus (st : Word) (code : Nat) : Word :=
  (st &&& 0xFFFFF0FE) ||| 0x00000006 ||| (BitVec.ofNat 32 code <<< 8)

/-- The state of a command whose first stage raised: only STATUS and ERRINFO differ (R164). -/
def State.failed (s : State) (code : Nat) (info : Word) : State :=
  { s with status := failedStatus s.status code, errinfo := info }

/-- Single commands one after another, up to the first that ends with an error (R145). -/
def runInOrder : List Instr → State → Host.Outcome State Fault Refusal
  | [], s => .next s
  | i :: rest, s =>
    match exec i s with
    | .next t => if t.err then .next t else runInOrder rest t
    | .fault r => .fault r
    | .refused r => .refused r

/-- The opcode of the first stage of a command that runs a stage with `check_dims` (R73, R155). -/
def firstStageOf : Instr → Option Word
  | .nop => none
  | .invalidate => none
  | .loadBe => some 1
  | .loadNative => some 2
  | .compress => some 3
  | .hist => some 4
  | .tone => some 5
  | .remap => some 6
  | .enhance => some 4
  | .pipeline => some 1

/-- The (ERRCODE, ERRINFO) pairs the block can report (R165). -/
abbrev reportable (code : BitVec 4) (info : Word) : Prop :=
  (code = 0 ∧ info = 0) ∨ (code = 1 ∧ (info = 1 ∨ info = 2)) ∨ (code = 2 ∧ info = 3) ∨
  (code = 3 ∧ (info = 0x205 ∨ info = 0x505 ∨ info = 0x605)) ∨ (code = 4 ∧ 1 ≤ info.toNat ∧ info.toNat ≤ 6) ∨
  (code = 5 ∧ info.toNat ≤ 0xFF) ∨ (code = 6 ∧ 3 ≤ info.toNat ∧ info.toNat ≤ 6) ∨ (code = 7 ∧ info = 5)

/-! ### Invariants of the block -/

/-- The registers and the storage are as the spec says they always are. -/
structure State.RegistersOk (s : State) : Prop where
  /-- The storage is in canonical form. -/
  memWf : s.mem.wf = true
  /-- Only offsets of buffer elements hold a byte (R56, R60). -/
  memStored : ∀ c ∈ s.mem, (bufferAt Config.params c.1).isSome = true
  /-- The reserved bits of CTRL are 0 (R19, R46). -/
  ctrlReserved : s.ctrl &&& 0xFFFFFFE0 = 0
  /-- The reserved bits of STATUS are 0 (R20, R46). -/
  statusReserved : s.status &&& 0xFFFFF0F0 = 0
  /-- The reserved bits of VALID are 0 (R24, R46). -/
  validReserved : s.valid &&& 0xFFFFFFE0 = 0
  /-- The reserved bits of FALLBACK are 0 (R35). -/
  fallbackReserved : s.fallback &&& 0xFFFFFFF8 = 0
  /-- Bits [31:16] of MINV and MAXV are 0 (R29). -/
  extremesReserved : s.minv.toNat < 65536 ∧ s.maxv.toNat < 65536
  /-- While a command runs, no completion and no error is reported (R28, R141). -/
  busyClean : s.busy = true → s.done = false ∧ s.err = false ∧ s.errcode = 0 ∧ s.errinfo = 0
  /-- What is reported is a pair of the table (R165). -/
  reported : reportable s.errcode s.errinfo

/-- The bytes of a buffer's elements 0 to n-1 have been written. -/
def State.Written (s : State) (b : Buffer) (n : Nat) : Prop :=
  ∀ j < b.elemBytes * n, (s.mem.written (b.base + j)).isSome = true

/-- A valid bit that only the engine sets says that its buffers hold a result written since reset (R24, R44). -/
structure State.ResultsOk (s : State) : Prop where
  frame16 : s.vF16 = true → s.GeometryLegal ∧ s.Written .f16 (s.width.toNat * s.height.toNat)
  statistics : s.vStats = true → s.GeometryLegal ∧ s.Written .hist 256
  tone : s.vTone = true → s.GeometryLegal ∧ s.Written .mhist 256 ∧ s.Written .pdf 256 ∧ s.Written .pdfw 256 ∧
    s.Written .cdfw 256 ∧ s.Written .lut 256
  output : s.vOut = true → s.GeometryLegal ∧ s.Written .f8out (s.width.toNat * s.height.toNat)

/-- The ranges of loaded samples and of the statistics (R13, R37, R48, R107), for the default NATIVE_CLAMP. -/
structure State.RangesOk (s : State) : Prop where
  frame16 : s.vF16 = true → s.GeometryLegal ∧ ∀ i < s.width.toNat * s.height.toNat, s.f16At i ≤ 16383
  k : s.vStats = true → s.k.toNat ≤ 255 * (s.width.toNat * s.height.toNat)
  count : s.vStats = true → s.count.toNat ≤ s.width.toNat * s.height.toNat
  bins : s.vStats = true → s.count.toNat = ((List.range 256).map s.histAt).sum

/-! ### Safe runs -/

/-- n steps from s, none of them refused, end in t. -/
def RunsTo (n : Nat) (s t : State) : Prop := Host.Core.run Sys2Proof.core n s = .next t

/-- A claim about a host program takes "HOST_VIOL = 0 at the end" as a premise (R183, R192): a run is safe when it ends,
with no write of the host dropped and with no command pending. -/
def SafeRun (n : Nat) (s : State) : Prop := ∃ t, RunsTo n s t ∧ t.hostViol = false ∧ t.busy = false

end Sys2Proof.Machine
end

