-- ==== Sys2Proof/WellFormed.lean ====
section
/-! DEFINITION. Which commands, host accesses and parameter sets are well formed. The machine does not rest on these checks: it answers every access, an ill-formed one as R52, R53 and R50 say. -/

namespace Sys2Proof

/-- A command is well formed when its opcode is one of the map's, 0x00 to 0x09 (R73, R74). Every constructor's is:
a command has no operand that could be out of range (R72, R79). -/
def Instr.wellFormed (i : Instr) : Bool := decide (i.opcode.toNat ≤ 9)

/-- The offset an access starts at. -/
def Access.offset : Access → Nat
  | .read _ a => a
  | .write _ a _ => a

/-- The width of an access. -/
def Access.size : Access → AccessSize
  | .read n _ => n
  | .write n _ _ => n

/-- "The block decodes offsets 0x0000_0000 to 0x04FF_FFFF" (R50). -/
def Access.inRange (a : Access) : Bool := decide (a.offset ≤ 0x04FFFFFF)

/-- "An access of n bytes must have `a mod n = 0`" (R52). -/
def Access.aligned (a : Access) : Bool := decide (a.offset % a.size.bytes = 0)

/-- Accesses to offsets 0x000 to 0xFFF must be 4 bytes wide (R53). -/
def Access.widthLegal (a : Access) : Bool := decide (0xFFF < a.offset) || decide (a.size = .word)

/-- An access the block answers OKAY. -/
def Access.wellFormed (a : Access) : Bool := a.inRange && a.aligned && a.widthLegal

/-- The ranges of the parameters (R6). -/
def Params.wellFormed (p : Params) : Bool :=
  decide (1 ≤ p.maxPixels) && decide (p.maxPixels ≤ 8388608) && decide (p.resetW * p.resetH ≤ p.maxPixels)

end Sys2Proof
end

