-- ==== Sys2Proof/Certificates/Slice0/Obligations.lean ====
section
/-! DEFINITION. The statements for the provers. OBLIGATIONS.json gives each its number, tier, kind and the rules it formalises. -/

open Sys2Proof Sys2Proof.Machine

/-! ### Reset -/

/-- R176: the reset input, at any time, BUSY or not. Every register takes its reset value, no buffer element holds a
written value any more, a command in progress is abandoned and never completes, and `irq` is 0. -/
def Obligations.ResetInputRestoresEveryRegister : Prop :=
  ∀ (s : State) (rest : List Move), s.moves = .reset :: rest →
    ∃ t, step s = .next t ∧ t.ctrl = 0 ∧ t.status = 0 ∧ t.cmd = 0 ∧ t.errinfo = 0 ∧ t.width.toNat = 640 ∧
      t.height.toNat = 512 ∧ t.rawLen = 0 ∧ t.valid = 0 ∧ t.threshold.toNat = 5 ∧ t.alpha = 0 ∧
      t.gain = 0x4024000000000000 ∧ t.minv = 0 ∧ t.maxv = 0 ∧ t.k = 0 ∧ t.count = 0 ∧ t.kg = 0 ∧ t.kprime = 0 ∧
      t.kexp = 0 ∧ t.fallback = 0 ∧ t.u = 0 ∧ t.pdfmin = 0 ∧ t.pdfmax = 0 ∧ t.cdfsum = 0 ∧ t.irq = false ∧
      t.busy = false ∧ t.moves = rest ∧ (∀ a, t.mem.written a = none)

/-- The model's choices: after a reset every byte of a buffer reads as a free value numbered by the reset and the offset (log
entry 1); the reset counts as one more (log entry 10); a 1-byte host read returns the byte with 0 in the other lanes (log
entry 9). A step that is no reset leaves a byte that stays unwritten the same free value. -/
def Obligations.UnwrittenBytesReadAsFreeValues : Prop :=
  (∀ (s t : State) (rest : List Move), s.moves = .reset :: rest → step s = .next t →
    t.epoch = s.epoch + 1 ∧ ∀ a, t.byteAt a = Config.unwrittenByte t.epoch a) ∧
  (∀ (s t : State) (rest : List Move) (j : Nat), s.moves = .reset :: .access (.read .byte (0x04000000 + j)) :: rest →
    j < 327680 → step s = .next t →
    step t = .next { t with moves := rest,
                            response := some ⟨true, some ((Config.unwrittenByte t.epoch (0x04000000 + j)).setWidth 32)⟩ }) ∧
  ∀ (s t : State) (a : Nat), step s = .next t → s.moves.head? ≠ some .reset → s.mem.written a = none →
    t.mem.written a = none → t.byteAt a = s.byteAt a ∧ t.byteAt a = Config.unwrittenByte s.epoch a

/-- The state after reset (R177) meets the three invariants, and every register of R18 has its reset value. -/
def Obligations.ResetStateMeetsTheInvariants : Prop :=
  State.reset.RegistersOk ∧ State.reset.ResultsOk ∧ State.reset.RangesOk ∧
    State.reset.width.toNat = 640 ∧ State.reset.height.toNat = 512 ∧ State.reset.threshold.toNat = 5 ∧
    State.reset.gain = 0x4024000000000000 ∧
    (∀ r ∈ [RegName.ctrl, .status, .cmd, .errinfo, .rawLen, .valid, .alpha, .minv, .maxv, .k, .count, .kgLo, .kgHi,
        .kprimeLo, .kprimeHi, .kexp, .fallback, .uLo, .uHi, .pdfminLo, .pdfminHi, .pdfmaxLo, .pdfmaxHi, .cdfsumLo,
        .cdfsumHi], State.reset.reg r = 0) ∧
    State.reset.busy = false ∧ State.reset.irq = false

/-! ### Decoding and the engine's turn -/

/-- The engine's turn runs the command whose word stands in CMD: step is exec of the decoded command, on the state whose
moves to come are one fewer. -/
def Obligations.StepRunsTheDecodedCommand : Prop :=
  ∀ (s : State) (i : Instr), s.busy = true → (s.moves = [] ∨ s.moves.head? = some .engine) →
    decode (wordBytes s.cmd) = .ok i → step s = exec i { s with moves := s.moves.tail }

/-- Words written out from R73's map decode to their commands, and the words of R83 and V60 that are illegal do not. -/
def Obligations.WrittenOutWordsDecode : Prop :=
  decode [0x01, 0x00, 0x00, 0x00] = .ok .loadBe ∧ decode [0x02, 0x00, 0x00, 0x00] = .ok .loadNative ∧
  decode [0x05, 0x00, 0x00, 0x00] = .ok .tone ∧ decode [0x09, 0x00, 0x00, 0x00] = .ok .invalidate ∧
  decode [0x0A, 0x00, 0x00, 0x00] = .error .unknownOpcode ∧ decode [0x05, 0x01, 0x00, 0x00] = .error .reservedNonzero ∧
  decode [0x00, 0x00, 0x00, 0x80] = .error .reservedNonzero

/-- R84: the legal words are exactly those with w >> 8 = 0 and w & 0xFF ≤ 9, each is the word of the command it decodes
to, every bit of it, and every command's word decodes to the command. -/
def Obligations.DecoderAcceptsExactlyTheLegalWords : Prop :=
  (∀ w : Word, (∃ i, decode (wordBytes w) = .ok i) ↔ (w >>> 8 = 0 ∧ (w &&& 0xFF).toNat ≤ 9)) ∧
  (∀ (w : Word) (i : Instr), decode (wordBytes w) = .ok i → encode i = w ∧ (w &&& 0xFF) = i.opcode.setWidth 32) ∧
  (∀ i : Instr, i.wellFormed = true → decode (wordBytes (encode i)) = .ok i)

/-- R159: an illegal word in CMD runs no stage: the engine's turn reports ILLEGAL_COMMAND with the word's bits [7:0] and
changes nothing else. -/
def Obligations.IllegalWordCompletesWithIllegalCommand : Prop :=
  ∀ s : State, s.busy = true → (s.moves = [] ∨ s.moves.head? = some .engine) →
    (s.cmd.extractLsb' 8 24 ≠ 0 ∨ 9 < (s.cmd.extractLsb' 0 8).toNat) →
    step s = .next (({ s with moves := s.moves.tail } : State).failed 5 ((s.cmd.extractLsb' 0 8).setWidth 32))

/-- R175: the block is idle when BUSY = 0: a turn of the engine then changes no state of the block. -/
def Obligations.IdleBlockDoesNothing : Prop :=
  ∀ s : State, s.busy = false → (s.moves = [] ∨ s.moves.head? = some .engine) →
    step s = .next { s with moves := s.moves.tail }

/-- R190, R142: with a command accepted, the engine's turn completes it, legal or not: BUSY 0, DONE 1, HOST_VIOL and the
moves to come as they were. -/
def Obligations.EveryAcceptedCommandCompletes : Prop :=
  ∀ s : State, s.busy = true → (s.moves = [] ∨ s.moves.head? = some .engine) →
    ∃ t, step s = .next t ∧ t.busy = false ∧ t.done = true ∧ t.hostViol = s.hostViol ∧ t.moves = s.moves.tail

/-- A command word written to CMD while the block is idle, and then no further move of the host, is a safe run of two
steps: the command has completed and no write was dropped (R16, R141, R190). -/
def Obligations.IssuedCommandRunsSafely : Prop :=
  ∀ (s : State) (w : Word), s.busy = false → s.hostViol = false →
    SafeRun 2 { s with moves := [.access (.write .word 0x008 w)] }

/-! ### The commands -/

/-- NOP (R147) and INVALIDATE (R148): what each changes, all else unchanged, whatever the state; and a NOP issued to the
idle block and run leaves DONE 1, ERR, ERRCODE and ERRINFO 0, HOST_VIOL as it was. -/
def Obligations.NopAndInvalidateFollowTheirRules : Prop :=
  (∀ s : State, exec .nop s = .next { s with status := completedStatus s.status }) ∧
  (∀ s : State, exec .invalidate s = .next { s with valid := 0, status := completedStatus s.status }) ∧
  (∀ s : State, s.busy = false →
    RunsTo 2 { s with moves := [.access (.write .word 0x008 0x00000000), .engine] }
      { s with moves := [], cmd := 0, errinfo := 0, status := (s.status &&& 0x00000008) ||| 0x00000002,
               response := some ⟨true, none⟩ })

/-- LOAD_BE (R86, R88): its errors, each changing only STATUS and ERRINFO, and its result by the closed form, every
register but VALID and STATUS and every byte outside F16[0 .. N-1] unchanged. -/
def Obligations.LoadBeFollowsItsRule : Prop :=
  ∀ s : State,
    (¬ s.GeometryLegal → exec .loadBe s = .next (s.failed 4 1)) ∧
    (s.GeometryLegal → s.rawLen.toNat < 2 * (s.width.toNat * s.height.toNat) →
      exec .loadBe s = .next (s.failed 1 1)) ∧
    (s.GeometryLegal → 2 * (s.width.toNat * s.height.toNat) < s.rawLen.toNat →
      exec .loadBe s = .next (s.failed 4 1)) ∧
    (s.GeometryLegal → s.rawLen.toNat = 2 * (s.width.toNat * s.height.toNat) →
      ∃ t, exec .loadBe s = .next t ∧
        (∀ i < s.width.toNat * s.height.toNat, t.f16At i = loadBeClosed (s.sampleBE i) ∧ t.f16At i ≤ 16383) ∧
        (∀ a, a < 0x02000000 ∨ 0x02000000 + 2 * (s.width.toNat * s.height.toNat) ≤ a → t.byteAt a = s.byteAt a) ∧
        t = { s with mem := t.mem, valid := s.valid ||| 0x00000001, status := completedStatus s.status })

/-- LOAD_NATIVE (R90), under the default NATIVE_CLAMP. -/
def Obligations.LoadNativeFollowsItsRule : Prop :=
  ∀ s : State,
    (¬ s.GeometryLegal → exec .loadNative s = .next (s.failed 4 2)) ∧
    (s.GeometryLegal → s.rawLen.toNat < 2 * (s.width.toNat * s.height.toNat) →
      exec .loadNative s = .next (s.failed 1 2)) ∧
    (s.GeometryLegal → 2 * (s.width.toNat * s.height.toNat) < s.rawLen.toNat →
      exec .loadNative s = .next (s.failed 4 2)) ∧
    (s.GeometryLegal → s.rawLen.toNat = 2 * (s.width.toNat * s.height.toNat) →
      ∃ t, exec .loadNative s = .next t ∧
        (∀ i < s.width.toNat * s.height.toNat, t.f16At i = min (s.sampleNative i) 16383) ∧
        (∀ a, a < 0x02000000 ∨ 0x02000000 + 2 * (s.width.toNat * s.height.toNat) ≤ a → t.byteAt a = s.byteAt a) ∧
        t = { s with mem := t.mem, valid := s.valid ||| 0x00000001, status := completedStatus s.status })

/-- R97: the binary64 path of COMPRESS, division first and product second, is the exact integer quotient, for every pair
of a difference x and a range d that 16-bit samples can give. -/
def Obligations.CompressedPixelIsTheIntegerQuotient : Prop :=
  ∀ x d : Nat, x ≤ d → 0 < d → d ≤ 65535 →
    ffloor (fmul (fdiv (f64OfNat x) (f64OfNat d)) 0x406FE00000000000) = ((255 * x / d : Nat) : Int)

/-- COMPRESS (R95, R96): lo and hi being the least and the greatest sample of the frame. Its errors, the flat frame under
both policies, and the frame that is not flat; every register but those of the commit list and every byte outside
F8IN[0 .. N-1] unchanged. -/
def Obligations.CompressFollowsItsRule : Prop :=
  ∀ s : State,
    (¬ s.GeometryLegal → exec .compress s = .next (s.failed 4 3)) ∧
    (s.GeometryLegal → s.vF16 = false → exec .compress s = .next (s.failed 6 3)) ∧
    (∀ lo hi : Nat, s.GeometryLegal → s.vF16 = true →
      (∃ i < s.width.toNat * s.height.toNat, s.f16At i = lo) → (∃ i < s.width.toNat * s.height.toNat, s.f16At i = hi) →
      (∀ i < s.width.toNat * s.height.toNat, lo ≤ s.f16At i ∧ s.f16At i ≤ hi) →
      (lo = hi → s.flatZero = false → exec .compress s = .next (s.failed 2 3)) ∧
      (lo = hi → s.flatZero = true →
        ∃ t, exec .compress s = .next t ∧ (∀ i < s.width.toNat * s.height.toNat, t.f8inAt i = 0) ∧
          (∀ a, a < 0x03000000 ∨ 0x03000000 + s.width.toNat * s.height.toNat ≤ a → t.byteAt a = s.byteAt a) ∧
          t = { s with mem := t.mem, minv := BitVec.ofNat 32 lo, maxv := BitVec.ofNat 32 hi,
                       fallback := s.fallback ||| 0x00000001, valid := s.valid ||| 0x00000002,
                       status := completedStatus s.status }) ∧
      (lo ≠ hi →
        ∃ t, exec .compress s = .next t ∧
          (∀ i < s.width.toNat * s.height.toNat, t.f8inAt i = 255 * (s.f16At i - lo) / (hi - lo)) ∧
          (∀ a, a < 0x03000000 ∨ 0x03000000 + s.width.toNat * s.height.toNat ≤ a → t.byteAt a = s.byteAt a) ∧
          t = { s with mem := t.mem, minv := BitVec.ofNat 32 lo, maxv := BitVec.ofNat 32 hi,
                       fallback := s.fallback &&& 0xFFFFFFFE, valid := s.valid ||| 0x00000002,
                       status := completedStatus s.status }))

/-- HIST (R103): its errors, and the sums over the rows and columns of the frame; every other register and every byte
outside HIST[0..255] unchanged. -/
def Obligations.HistFollowsItsRule : Prop :=
  ∀ s : State,
    (¬ s.GeometryLegal → exec .hist s = .next (s.failed 4 4)) ∧
    (s.GeometryLegal → s.vF8in = false → exec .hist s = .next (s.failed 6 4)) ∧
    (s.GeometryLegal → s.vF8in = true →
      ∃ t, exec .hist s = .next t ∧ t.k.toNat = s.frameK ∧ t.count.toNat = s.frameCount ∧
        (∀ v < 256, t.histAt v = s.frameHist v) ∧
        (∀ a, a < 0x00001000 ∨ 0x00001400 ≤ a → t.byteAt a = s.byteAt a) ∧
        t = { s with mem := t.mem, k := t.k, count := t.count, valid := s.valid ||| 0x00000004,
                     status := completedStatus s.status })

/-- R107: COUNT is the sum of the bins; K is 0 exactly on the all-zero frame, and then COUNT and every bin are 0. -/
def Obligations.HistStatisticsAreConsistent : Prop :=
  ∀ s t : State, s.GeometryLegal → s.vF8in = true → exec .hist s = .next t →
    t.count.toNat = ((List.range 256).map t.histAt).sum ∧
    (t.k = 0 ↔ ∀ i < s.width.toNat * s.height.toNat, s.f8inAt i = 0) ∧
    (t.k = 0 → t.count = 0 ∧ ∀ v < 256, t.histAt v = 0)

/-- TONE on statistics that no step finds degenerate (R111 to R128, R130): every output, bin by bin, from the formulas
of the steps under the default parameters; every other register and every byte outside MHIST to LUT unchanged. The model's choice: an MHIST element is stored modulo 2^32 and a LUT
entry modulo 256 (log entry 13), which only states that no run reaches can show (R48, R127). -/
def Obligations.ToneCompletesWithTheStepFormulas : Prop :=
  ∀ (s : State) (lo hi : Nat), s.GeometryLegal → s.vStats = true → isfinite s.gain = true → flt 0 s.gain = true →
    isinf s.toneKg = false → (feq s.toneKg 0 = true → s.kFallback = true) → s.ToneExtremes lo hi →
    (feq (s.toneP hi) (s.toneP lo) = true → s.pdfFallback = true) → feq (s.toneS lo hi) 0 = false →
    ∃ t, exec .tone s = .next t ∧
      (∀ i < 256, t.mhistAt i = s.toneMh i % 4294967296 ∧ t.pdfAt i = s.toneP i ∧ t.pdfwAt i = s.tonePw lo hi i ∧
        t.cdfwAt i = s.toneCdf lo hi i) ∧
      (∀ i, 1 ≤ i → i < 256 → (t.lutAt i : Int) = s.toneEntry lo hi i % 256) ∧
      t.lutAt 0 = (if s.table0Copy = true then t.lutAt 1 else 0) ∧
      (∀ a, a < 0x00001400 ∨ 0x00003100 ≤ a → t.byteAt a = s.byteAt a) ∧
      t = { s with mem := t.mem, kg := s.toneKg, kprime := s.toneKprime, kexp := BitVec.ofInt 32 s.toneExponent,
                   u := s.toneUAt, pdfmin := s.toneP lo, pdfmax := s.toneP hi, cdfsum := s.toneS lo hi,
                   fallback := (s.fallback &&& 0xFFFFFFF9) ||| (if feq s.toneKg 0 = true then 2 else 0) |||
                     (if feq (s.toneP hi) (s.toneP lo) = true then 4 else 0),
                   valid := s.valid ||| 0x00000008, status := completedStatus s.status }

/-- R132: the errors of TONE in the order they are checked, each changing only STATUS and ERRINFO. -/
def Obligations.ToneRaisesItsErrorsInOrder : Prop :=
  ∀ s : State,
    (¬ s.GeometryLegal → exec .tone s = .next (s.failed 4 0x005)) ∧
    (s.GeometryLegal → s.vStats = false → exec .tone s = .next (s.failed 6 0x005)) ∧
    (s.GeometryLegal → s.vStats = true → ¬ (isfinite s.gain = true ∧ flt 0 s.gain = true) →
      exec .tone s = .next (s.failed 7 0x005)) ∧
    (s.GeometryLegal → s.vStats = true → isfinite s.gain = true → flt 0 s.gain = true →
      ((feq s.toneKg 0 = true ∧ s.kFallback = false) ∨ isinf s.toneKg = true →
        exec .tone s = .next (s.failed 3 0x205)) ∧
      (∀ lo hi : Nat, isinf s.toneKg = false → (feq s.toneKg 0 = true → s.kFallback = true) → s.ToneExtremes lo hi →
        (feq (s.toneP hi) (s.toneP lo) = true → s.pdfFallback = false → exec .tone s = .next (s.failed 3 0x505)) ∧
        ((feq (s.toneP hi) (s.toneP lo) = true → s.pdfFallback = true) → feq (s.toneS lo hi) 0 = true →
          exec .tone s = .next (s.failed 3 0x605))))

/-- R125, R123: the sum of Step 6 is not 0 where the PDF is not degenerate, so TONE then completes. -/
def Obligations.NonDegeneratePdfReachesTheTable : Prop :=
  ∀ (s : State) (lo hi : Nat), s.GeometryLegal → s.vStats = true → isfinite s.gain = true → flt 0 s.gain = true →
    isinf s.toneKg = false → (feq s.toneKg 0 = true → s.kFallback = true) → s.ToneExtremes lo hi →
    feq (s.toneP hi) (s.toneP lo) = false →
    feq (s.toneS lo hi) 0 = false ∧
    ∃ t, exec .tone s = .next t ∧ t.vTone = true ∧ t.status = completedStatus s.status

/-- R126: after a TONE that committed, CDFW ends at exactly 1.0, lies in [0, 1] and does not decrease. -/
def Obligations.CdfRisesToOne : Prop :=
  ∀ s t : State, s.err = false → exec .tone s = .next t → t.err = false →
    t.cdfwAt 255 = 0x3FF0000000000000 ∧
    (∀ i < 256, flt (t.cdfwAt i) 0 = false ∧ flt 0x3FF0000000000000 (t.cdfwAt i) = false ∧ isnan (t.cdfwAt i) = false) ∧
    ∀ i < 255, flt (t.cdfwAt (i + 1)) (t.cdfwAt i) = false

/-- R133: statistics of an all-zero frame, or of a frame with COUNT = 0, never give a table: TONE raises at step 2, 5 or 6
by K and the two fallback bits. -/
def Obligations.ZeroCountNeverGivesATable : Prop :=
  ∀ s : State, s.GeometryLegal → s.vStats = true → isfinite s.gain = true → flt 0 s.gain = true →
    isinf s.toneKg = false → s.count = 0 → (∀ v < 256, s.histAt v = 0) →
    exec .tone s = .next (s.failed 3
      (if s.k = 0 ∧ s.kFallback = false then 0x205 else if s.pdfFallback = false then 0x505 else 0x605))

/-- R112: for a finite kg > 0, e is the least integer with 2^e ≥ kg, it lies in [-1074, 1024], and k' = kg·2^-e exactly,
in (0.5, 1], equal to 1 exactly when kg is a power of two. Values are counted in least subnormals 2^-1074. -/
def Obligations.BlendFactorLiesAboveOneHalf : Prop :=
  ∀ kg : F64, isfinite kg = true → flt 0 kg = true →
    -1074 ≤ leastExponent kg ∧ leastExponent kg ≤ 1024 ∧
    f64Units kg ≤ 2 ^ (leastExponent kg + 1074).toNat ∧
    (∀ n < (leastExponent kg + 1074).toNat, 2 ^ n < f64Units kg) ∧
    f64Units (ldexp kg (-(leastExponent kg))) * 2 ^ (leastExponent kg + 1074).toNat = f64Units kg * f64One ∧
    flt 0x3FE0000000000000 (ldexp kg (-(leastExponent kg))) = true ∧
    flt 0x3FF0000000000000 (ldexp kg (-(leastExponent kg))) = false ∧
    (feq (ldexp kg (-(leastExponent kg))) 0x3FF0000000000000 = true ↔ ∃ n, f64Units kg = 2 ^ n)

/-- R114: kg is 0 exactly when K is, for every gain TONE takes; and with the default gain kg = 10·K exactly. -/
def Obligations.KgIsZeroExactlyWhenKIs : Prop :=
  (∀ (k : Nat) (g : F64), k < 4294967296 → isfinite g = true → flt 0 g = true →
    (feq (fmul (f64OfNat k) g) 0 = true ↔ k = 0)) ∧
  ∀ k : Nat, k < 4294967296 → fmul (f64OfNat k) 0x4024000000000000 = f64OfNat (10 * k)

/-- REMAP (R136): its errors, and the exact lookup of every pixel of the frame; every register but VALID and STATUS and
every byte outside F8OUT[0 .. N-1] unchanged. -/
def Obligations.RemapFollowsItsRule : Prop :=
  ∀ s : State,
    (¬ s.GeometryLegal → exec .remap s = .next (s.failed 4 6)) ∧
    (s.GeometryLegal → (s.vF8in = false ∨ s.vTone = false) → exec .remap s = .next (s.failed 6 6)) ∧
    (s.GeometryLegal → s.vF8in = true → s.vTone = true →
      ∃ t, exec .remap s = .next t ∧
        (∀ i < s.width.toNat * s.height.toNat, t.f8outAt i = s.lutAt (s.f8inAt i)) ∧
        (∀ a, a < 0x04000000 ∨ 0x04000000 + s.width.toNat * s.height.toNat ≤ a → t.byteAt a = s.byteAt a) ∧
        t = { s with mem := t.mem, valid := s.valid ||| 0x00000010, status := completedStatus s.status })

/-- ENHANCE (R151) on a frame whose statistics Steps 2 to 7 take to a table r: HIST, the table and the remapped frame. -/
def Obligations.EnhanceCompletes : Prop :=
  ∀ (s : State) (r : ToneResult), s.GeometryLegal → s.vF8in = true → isfinite s.gain = true → flt 0 s.gain = true →
    toneSteps Config.params s (s.width.toNat * s.height.toNat) s.frameK s.frameCount
      ((List.range 256).map s.frameHist) = .ok r →
    ∃ t, exec .enhance s = .next t ∧ t.k.toNat = s.frameK ∧ t.count.toNat = s.frameCount ∧
      (∀ v < 256, t.histAt v = s.frameHist v ∧ t.lutAt v = (r.lut.getD v 0).toNat) ∧
      (∀ i < s.width.toNat * s.height.toNat, t.f8outAt i = t.lutAt (s.f8inAt i)) ∧
      (∀ a, (a < 0x00001000 ∨ 0x00003100 ≤ a) →
        (a < 0x04000000 ∨ 0x04000000 + s.width.toNat * s.height.toNat ≤ a) → t.byteAt a = s.byteAt a) ∧
      t = { s with mem := t.mem, k := t.k, count := t.count, kg := r.blend.kg, kprime := r.blend.kprime,
                   kexp := BitVec.ofInt 32 r.blend.e, u := r.u, pdfmin := r.pdfmin, pdfmax := r.pdfmax,
                   cdfsum := r.cdfsum, fallback := t.fallback, valid := s.valid ||| 0x0000001C,
                   status := completedStatus s.status } ∧
      t.fallback = (s.fallback &&& 0xFFFFFFF9) ||| (if r.blend.fallback = true then 2 else 0) |||
        (if r.pdfFallback = true then 4 else 0)

/-- PIPELINE (R153) on a raw stream of the frame's length that is not flat, lo and hi being its least and greatest loaded
sample, and m a state that differs from s in storage only and holds the compressed frame in F8IN, with statistics that
Steps 2 to 7 take to a table r. -/
def Obligations.PipelineCompletes : Prop :=
  ∀ (s m : State) (r : ToneResult) (lo hi : Nat), s.GeometryLegal →
    s.rawLen.toNat = 2 * (s.width.toNat * s.height.toNat) →
    (∃ i < s.width.toNat * s.height.toNat, loadBeClosed (s.sampleBE i) = lo) →
    (∃ i < s.width.toNat * s.height.toNat, loadBeClosed (s.sampleBE i) = hi) →
    (∀ i < s.width.toNat * s.height.toNat, lo ≤ loadBeClosed (s.sampleBE i) ∧ loadBeClosed (s.sampleBE i) ≤ hi) →
    lo ≠ hi → isfinite s.gain = true → flt 0 s.gain = true → m = { s with mem := m.mem } →
    (∀ i < s.width.toNat * s.height.toNat,
      m.f8inAt i = 255 * (loadBeClosed (s.sampleBE i) - lo) / (hi - lo)) →
    toneSteps Config.params s (s.width.toNat * s.height.toNat) m.frameK m.frameCount
      ((List.range 256).map m.frameHist) = .ok r →
    ∃ t, exec .pipeline s = .next t ∧
      (∀ i < s.width.toNat * s.height.toNat, t.f16At i = loadBeClosed (s.sampleBE i) ∧ t.f8inAt i = m.f8inAt i ∧
        t.f8outAt i = t.lutAt (t.f8inAt i)) ∧
      t.k.toNat = m.frameK ∧ t.count.toNat = m.frameCount ∧
      (∀ v < 256, t.histAt v = m.frameHist v ∧ t.lutAt v = (r.lut.getD v 0).toNat) ∧
      (∀ a, (a < 0x00001000 ∨ 0x00003100 ≤ a) →
        (a < 0x02000000 ∨ 0x02000000 + 2 * (s.width.toNat * s.height.toNat) ≤ a) →
        (a < 0x03000000 ∨ 0x03000000 + s.width.toNat * s.height.toNat ≤ a) →
        (a < 0x04000000 ∨ 0x04000000 + s.width.toNat * s.height.toNat ≤ a) → t.byteAt a = s.byteAt a) ∧
      t = { s with mem := t.mem, minv := BitVec.ofNat 32 lo, maxv := BitVec.ofNat 32 hi, k := t.k, count := t.count,
                   kg := r.blend.kg, kprime := r.blend.kprime, kexp := BitVec.ofInt 32 r.blend.e, u := r.u,
                   pdfmin := r.pdfmin, pdfmax := r.pdfmax, cdfsum := r.cdfsum, fallback := t.fallback,
                   valid := s.valid ||| 0x0000001F, status := completedStatus s.status } ∧
      t.fallback = (s.fallback &&& 0xFFFFFFF8) ||| (if r.blend.fallback = true then 2 else 0) |||
        (if r.pdfFallback = true then 4 else 0)

/-- R145: a composite is its single commands issued one after another up to the first that ends with an error: later
stages see the commits of earlier ones, and those stay when a later stage raises. -/
def Obligations.CompositesAreTheirSingleCommands : Prop :=
  ∀ s : State, s.err = false →
    exec .enhance s = runInOrder [.hist, .tone, .remap] s ∧
    exec .pipeline s = runInOrder [.loadBe, .compress, .hist, .tone, .remap] s

/-! ### All commands -/

/-- R155: every command that runs a stage with check_dims fails with INVALID_DIMENSIONS on illegal geometry, naming its
first stage and with nothing written; NOP and INVALIDATE complete without error whatever the geometry. -/
def Obligations.GeometryIsCheckedFirst : Prop :=
  ∀ (i : Instr) (s : State), ¬ s.GeometryLegal →
    (∀ stage, firstStageOf i = some stage → exec i s = .next (s.failed 4 stage)) ∧
    (firstStageOf i = none → ∃ t, exec i s = .next t ∧ t.status = completedStatus s.status)

/-- R161: on legal geometry a stage whose input's valid bit is 0 raises SEQUENCE, also as the first stage of ENHANCE, and
the loaders need no valid bit. -/
def Obligations.MissingInputRaisesSequence : Prop :=
  ∀ s : State, s.GeometryLegal →
    (s.vF16 = false → exec .compress s = .next (s.failed 6 3)) ∧
    (s.vF8in = false → exec .hist s = .next (s.failed 6 4) ∧ exec .enhance s = .next (s.failed 6 4)) ∧
    (s.vStats = false → exec .tone s = .next (s.failed 6 5)) ∧
    (s.vF8in = false ∨ s.vTone = false → exec .remap s = .next (s.failed 6 6)) ∧
    (s.rawLen.toNat = 2 * (s.width.toNat * s.height.toNat) →
      (∃ t, exec .loadBe s = .next t ∧ t.status = completedStatus s.status) ∧
      ∃ t, exec .loadNative s = .next t ∧ t.status = completedStatus s.status)

/-- R18 (the column "written by the engine: never"), R36: no command changes a configuration register, CMD, RAW_LEN or
RAW, nor what belongs to the outside. -/
def Obligations.NoCommandWritesTheHostsState : Prop :=
  ∀ (i : Instr) (s t : State), exec i s = .next t →
    t.ctrl = s.ctrl ∧ t.cmd = s.cmd ∧ t.width = s.width ∧ t.height = s.height ∧ t.rawLen = s.rawLen ∧
    t.threshold = s.threshold ∧ t.alpha = s.alpha ∧ t.gain = s.gain ∧ t.moves = s.moves ∧ t.response = s.response ∧
    t.epoch = s.epoch ∧ t.draws = s.draws ∧ t.hostViol = s.hostViol ∧
    ∀ a, 0x01000000 ≤ a → a < 0x02000000 → t.byteAt a = s.byteAt a

/-- R164, R143: a command of one stage that ends with an error has changed only STATUS and ERRINFO. -/
def Obligations.FailedStageWritesNothing : Prop :=
  ∀ (i : Instr) (s t : State), i ≠ .enhance → i ≠ .pipeline → s.err = false → exec i s = .next t → t.err = true →
    t = { s with status := t.status, errinfo := t.errinfo }

/-- R26: ALPHA has no effect on any computation. -/
def Obligations.AlphaHasNoEffect : Prop :=
  ∀ (i : Instr) (s t : State) (x : Word), exec i s = .next t →
    exec i { s with alpha := x } = .next { t with alpha := x }

/-- R135, R140, R188: every command is deterministic in what it reads and does not write what it reads: run again on its
own result it gives that very state again. -/
def Obligations.RepeatedCommandGivesTheSameState : Prop :=
  ∀ (i : Instr) (s t : State), s.mem.wf = true → exec i s = .next t → exec i t = .next t

/-! ### The host bus -/

/-- R52: a misaligned access gets the ERROR response and has no effect, a read returning 0; the same for a narrow access
to the register block (R53). -/
def Obligations.IllFormedAccessHasNoEffect : Prop :=
  ∀ (s : State) (rest : List Move) (size : AccessSize) (a : Nat) (v : Word), a ≤ 0x04FFFFFF →
    (a % size.bytes ≠ 0 ∨ (a ≤ 0xFFF ∧ size ≠ .word)) →
    (s.moves = .access (.read size a) :: rest →
      step s = .next { s with moves := rest, response := some ⟨false, some 0⟩ }) ∧
    (s.moves = .access (.write size a v) :: rest →
      step s = .next { s with moves := rest, response := some ⟨false, none⟩ })

/-- R50, S9: an access outside the decoded offsets is outside the model. -/
def Obligations.AccessOutsideTheBlockIsRefused : Prop :=
  ∀ (s : State) (rest : List Move) (size : AccessSize) (a : Nat) (v : Word), 0x04FFFFFF < a →
    (s.moves = .access (.read size a) :: rest ∨ s.moves = .access (.write size a v) :: rest) →
    step s = .refused .outsideBlock

/-- R61: a read changes no state of the block, and while no command runs two reads of one place return one value. For elements
that nobody has written, which R61 exempts, that is S1 of 93_implementation_defined.md and the model's free value (log entry 1). -/
def Obligations.ReadsHaveNoSideEffect : Prop :=
  (∀ (s t : State) (rest : List Move) (size : AccessSize) (a : Nat), s.moves = .access (.read size a) :: rest →
    step s = .next t → t = { s with moves := rest, response := t.response, draws := t.draws } ∧
      (s.busy = false → t.draws = s.draws)) ∧
  ∀ (s t u : State) (rest : List Move) (size : AccessSize) (a : Nat), s.busy = false →
    s.moves = .access (.read size a) :: .access (.read size a) :: rest → step s = .next t → step t = .next u →
    u.response = t.response

/-- R141: a command word written to CMD while BUSY = 0 is accepted, whatever it is, in one step, and the interrupt output
falls; while BUSY = 1 it is dropped and recorded. -/
def Obligations.CommandWordIsAcceptedWhenIdle : Prop :=
  ∀ (s : State) (rest : List Move) (w : Word), s.moves = .access (.write .word 0x008 w) :: rest →
    (s.busy = false →
      ∃ t, step s = .next t ∧ t.irq = false ∧
        t = { s with moves := rest, cmd := w, status := (s.status &&& 0x00000008) ||| 0x00000001, errinfo := 0,
                     response := some ⟨true, none⟩ }) ∧
    (s.busy = true →
      step s = .next { s with moves := rest, status := s.status ||| 0x00000008, response := some ⟨true, none⟩ })

/-- R183: while BUSY = 1 a host write to configuration, CMD, VALID or an input buffer below capacity changes nothing but
HOST_VIOL, and one to a read-only register, a read-only window or reserved space changes nothing at all. -/
def Obligations.WritesWhileBusyAreDropped : Prop :=
  ∀ (s : State) (rest : List Move) (size : AccessSize) (a : Nat) (v : Word), s.busy = true →
    s.moves = .access (.write size a v) :: rest → a % size.bytes = 0 → a ≤ 0x04FFFFFF →
    (size = .word → a ∈ [0x000, 0x008, 0x010, 0x014, 0x018, 0x01C, 0x020, 0x024, 0x028, 0x02C] →
      step s = .next { s with moves := rest, status := s.status ||| 0x00000008, response := some ⟨true, none⟩ }) ∧
    (size = .word → (a = 0x00C ∨ (0x030 ≤ a ∧ a ≤ 0xFFF)) →
      step s = .next { s with moves := rest, response := some ⟨true, none⟩ }) ∧
    ((0x01000000 ≤ a ∧ a < 0x01000000 + 655360) ∨ (0x03000000 ≤ a ∧ a < 0x03000000 + 327680) →
      step s = .next { s with moves := rest, status := s.status ||| 0x00000008, response := some ⟨true, none⟩ }) ∧
    (0x1000 ≤ a → ¬ ((0x01000000 ≤ a ∧ a < 0x01000000 + 655360) ∨ (0x03000000 ≤ a ∧ a < 0x03000000 + 327680)) →
      step s = .next { s with moves := rest, response := some ⟨true, none⟩ })

/-- R20: a host write to STATUS clears exactly the bits among 1, 2 and 3 written as 1, idle or busy, and no other bit;
ERRCODE stays. -/
def Obligations.StatusWriteClearsOnlyWrittenBits : Prop :=
  ∀ (s : State) (rest : List Move) (v : Word), s.moves = .access (.write .word 0x004 v) :: rest →
    ∃ t, step s = .next t ∧ t = { s with moves := rest, status := t.status, response := some ⟨true, none⟩ } ∧
      t.done = (s.done && !v.getLsbD 1) ∧ t.err = (s.err && !v.getLsbD 2) ∧
      t.hostViol = (s.hostViol && !v.getLsbD 3) ∧ t.busy = s.busy ∧ t.errcode = s.errcode ∧
      t.status &&& 0xFFFFFFF1 = s.status &&& 0xFFFFFFF1

/-- R62, R19, R22, R24: a host write to a register while BUSY = 0, register by register: what it stores, the reserved bits
it ignores, the side effect of a geometry write; a read-only register or a reserved offset ignores it. -/
def Obligations.IdleRegisterWritesStore : Prop :=
  ∀ (s : State) (rest : List Move) (a : Nat) (v : Word), s.busy = false →
    s.moves = .access (.write .word a v) :: rest → a % 4 = 0 → a ≤ 0xFFF → a ≠ 0x004 → a ≠ 0x008 →
    step s = .next
      (if a = 0x000 then { s with moves := rest, response := some ⟨true, none⟩, ctrl := v &&& 0x0000001F }
       else if a = 0x010 then { s with moves := rest, response := some ⟨true, none⟩, width := v, valid := 0 }
       else if a = 0x014 then { s with moves := rest, response := some ⟨true, none⟩, height := v, valid := 0 }
       else if a = 0x018 then { s with moves := rest, response := some ⟨true, none⟩, rawLen := v }
       else if a = 0x01C then
         { s with moves := rest, response := some ⟨true, none⟩, valid := (s.valid &&& 0xFFFFFFFD) ||| (v &&& 0x00000002) }
       else if a = 0x020 then { s with moves := rest, response := some ⟨true, none⟩, threshold := v }
       else if a = 0x024 then { s with moves := rest, response := some ⟨true, none⟩, alpha := v }
       else if a = 0x028 then
         { s with moves := rest, response := some ⟨true, none⟩, gain := s.gain.extractLsb' 32 32 ++ v }
       else if a = 0x02C then
         { s with moves := rest, response := some ⟨true, none⟩, gain := v ++ s.gain.extractLsb' 0 32 }
       else { s with moves := rest, response := some ⟨true, none⟩ })

/-- R57, R64, R51: while BUSY = 0 a host write into RAW or F8IN below capacity stores byte j of the data at offset a + j
and changes no other byte and no register; a read of the same width then returns those bytes. That the other lanes of a 1-byte
or 2-byte read are 0 is the model's reading (log entry 9; V71 of 95_test_vectors.md shows it for a 2-byte read). -/
def Obligations.WindowWriteThenReadReturnsTheData : Prop :=
  ∀ (s : State) (rest : List Move) (size : AccessSize) (a : Nat) (v : Word), s.busy = false →
    s.moves = .access (.write size a v) :: .access (.read size a) :: rest → a % size.bytes = 0 →
    (0x01000000 ≤ a ∧ a < 0x01000000 + 655360) ∨ (0x03000000 ≤ a ∧ a < 0x03000000 + 327680) →
    ∃ t u, step s = .next t ∧ step t = .next u ∧
      (∀ j < size.bytes, t.byteAt (a + j) = (v >>> (8 * j)).setWidth 8) ∧
      (∀ x, x < a ∨ a + size.bytes ≤ x → t.byteAt x = s.byteAt x) ∧
      t = { s with moves := .access (.read size a) :: rest, mem := t.mem, response := some ⟨true, none⟩ } ∧
      u.response = some ⟨true, some (BitVec.ofNat 32 (v.toNat % 2 ^ (8 * size.bytes)))⟩

/-- R46, R60: reserved offsets, and offsets of a window beyond its capacity, read as 0 and ignore writes, idle or busy; R54,
R56: so do the read-only windows (HIST to LUT, F16, F8OUT) with writes below their capacity. -/
def Obligations.ReservedSpaceReadsZeroAndIgnoresWrites : Prop :=
  ∀ (s : State) (rest : List Move) (size : AccessSize) (a : Nat) (v : Word), a % size.bytes = 0 →
    (((size = .word ∧ 0x078 ≤ a ∧ a ≤ 0xFFF) ∨ (0x3100 ≤ a ∧ a < 0x01000000) ∨
        (0x01000000 + 655360 ≤ a ∧ a < 0x02000000) ∨ (0x02000000 + 655360 ≤ a ∧ a < 0x03000000) ∨
        (0x03000000 + 327680 ≤ a ∧ a < 0x04000000) ∨ (0x04000000 + 327680 ≤ a ∧ a < 0x05000000)) →
      (s.moves = .access (.read size a) :: rest →
        ∃ t, step s = .next t ∧ t.response = some ⟨true, some 0⟩) ∧
      (s.moves = .access (.write size a v) :: rest →
        step s = .next { s with moves := rest, response := some ⟨true, none⟩ })) ∧
    (((0x1000 ≤ a ∧ a < 0x3100) ∨ (0x02000000 ≤ a ∧ a < 0x02000000 + 655360) ∨
        (0x04000000 ≤ a ∧ a < 0x04000000 + 327680)) →
      s.moves = .access (.write size a v) :: rest →
        step s = .next { s with moves := rest, response := some ⟨true, none⟩ })

/-- R18, R54: an idle 4-byte read of a register's offset returns the register, a `_LO`/`_HI` pair returning the two halves
of its 64-bit quantity. -/
def Obligations.IdleRegisterReadsReturnTheRegister : Prop :=
  ∀ (s : State) (rest : List Move) (r : RegName), s.busy = false →
    s.moves = .access (.read .word r.offset) :: rest →
    step s = .next { s with moves := rest, response := some ⟨true, some (s.reg r)⟩ } ∧
    s.reg .gainHi ++ s.reg .gainLo = s.gain ∧ s.reg .kgHi ++ s.reg .kgLo = s.kg ∧
    s.reg .kprimeHi ++ s.reg .kprimeLo = s.kprime ∧ s.reg .uHi ++ s.reg .uLo = s.u ∧
    s.reg .pdfminHi ++ s.reg .pdfminLo = s.pdfmin ∧ s.reg .pdfmaxHi ++ s.reg .pdfmaxLo = s.pdfmax ∧
    s.reg .cdfsumHi ++ s.reg .cdfsumLo = s.cdfsum

/-- R182, R184: while BUSY = 1 a read of STATUS or a configuration register returns it, and a read of ERRINFO, VALID, a
result register or any buffer element returns a draw, a fresh one for each read. That a 1-byte or 2-byte read shows the low
bytes of its draw, and 0 above them, is the model's reading (log entries 2 and 9); that the draw covers the reserved bits of
ERRINFO, VALID, FALLBACK, MINV and MAXV too, which R46 has read as 0, is the model's choice (log entry 2). -/
def Obligations.BusyReadsReturnConfigurationOrADraw : Prop :=
  ∀ (s : State) (rest : List Move) (size : AccessSize) (a : Nat), s.busy = true →
    s.moves = .access (.read size a) :: rest →
    (∀ r ∈ [RegName.ctrl, .status, .cmd, .width, .height, .rawLen, .threshold, .alpha, .gainLo, .gainHi],
      size = .word → a = r.offset → ∃ t, step s = .next t ∧ t.response = some ⟨true, some (s.reg r)⟩) ∧
    (size = .word → (a = 0x00C ∨ a = 0x01C ∨ (0x030 ≤ a ∧ a ≤ 0x074 ∧ a % 4 = 0)) →
      ∃ t, step s = .next t ∧ t.response = some ⟨true, some (Config.busyRead s.draws)⟩ ∧ t.draws = s.draws + 1) ∧
    (a % size.bytes = 0 →
      ((0x1000 ≤ a ∧ a < 0x3100) ∨ (0x01000000 ≤ a ∧ a < 0x01000000 + 655360) ∨
        (0x02000000 ≤ a ∧ a < 0x02000000 + 655360) ∨ (0x03000000 ≤ a ∧ a < 0x03000000 + 327680) ∨
        (0x04000000 ≤ a ∧ a < 0x04000000 + 327680)) →
      ∃ t, step s = .next t ∧ t.draws = s.draws + 1 ∧
        t.response = some ⟨true, some (BitVec.ofNat 32 ((Config.busyRead s.draws).toNat % 2 ^ (8 * size.bytes)))⟩)

/-- R58: an idle 2-byte read of element i of the F16 window returns the sample zero-extended, and a 4-byte read returns two
neighbouring samples, the first in the low half. -/
def Obligations.F16WindowReadsReturnSamples : Prop :=
  ∀ (s : State) (rest : List Move) (i : Nat), s.busy = false →
    (i < 327680 → s.moves = .access (.read .half (0x02000000 + 2 * i)) :: rest →
      ∃ t, step s = .next t ∧ t.response = some ⟨true, some (BitVec.ofNat 32 (s.f16At i))⟩) ∧
    (2 * i + 1 < 327680 → s.moves = .access (.read .word (0x02000000 + 4 * i)) :: rest →
      ∃ t, step s = .next t ∧
        t.response = some ⟨true, some (BitVec.ofNat 32 (s.f16At (2 * i + 1) * 65536 + s.f16At (2 * i)))⟩)

/-- R167: the interrupt output rises only when the engine completes a command with IRQ_EN = 1, or when the host sets IRQ_EN
while DONE = 1. -/
def Obligations.InterruptRisesOnlyOnCompletionOrEnable : Prop :=
  ∀ s t : State, step s = .next t → s.irq = false → t.irq = true →
    (s.busy = true ∧ t.busy = false ∧ s.irqEn = true) ∨
    (∃ v, s.moves.head? = some (.access (.write .word 0x000 v)) ∧ v.getLsbD 0 = true ∧ s.busy = false ∧ s.done = true)

/-- R183: HOST_VIOL stays 1 until the host writes 1 to it or reset. -/
def Obligations.ViolationStaysUntilCleared : Prop :=
  ∀ s t : State, step s = .next t → s.hostViol = true → t.hostViol = false →
    s.moves.head? = some .reset ∨
    ∃ v, s.moves.head? = some (.access (.write .word 0x004 v)) ∧ v.getLsbD 3 = true

/-! ### Invariants that every step keeps -/

/-- Every step keeps the registers and the storage as the spec says they always are: reserved bits 0, a report of the
table, a clean report while BUSY = 1, the storage in canonical form and inside the buffers. -/
def Obligations.StepKeepsRegistersOk : Prop :=
  ∀ s t : State, s.RegistersOk → step s = .next t → t.RegistersOk

/-- Every step keeps what the valid bits say: a buffer whose bit only the engine sets has been written, on legal geometry. -/
def Obligations.StepKeepsResultsOk : Prop :=
  ∀ s t : State, s.ResultsOk → step s = .next t → t.ResultsOk

/-- Every step keeps the ranges: loaded samples lie in [0, 16383], K ≤ 255·N, COUNT ≤ N, COUNT is the sum of the bins. -/
def Obligations.StepKeepsRangesOk : Prop :=
  ∀ s t : State, s.RangesOk → step s = .next t → t.RangesOk

/-! ### The arithmetic -/

/-- R10: the rounding that the operations share gives a nearest value, no finite magnitude being closer to num/den least
subnormals than a rounding that does not overflow; a tie goes to the even encoding; it overflows to infinity exactly from
the midpoint between the greatest finite value and 2^1024 on. And the sum, difference, product and quotient of finite
values are their exact result rounded so, once, with its sign. The encodings and the sign of a zero sum are those of
IEEE 754, which R10 names (log entry 15). -/
def Obligations.RoundingGivesANearestValue : Prop :=
  (∀ num den m : Nat, 0 < den → roundMag num den < f64Inf → m < f64Inf →
    ((f64Units (f64Make false (roundMag num den)) : Int) * den - num).natAbs ≤
        ((f64Units (f64Make false m) : Int) * den - num).natAbs ∧
    (m ≠ roundMag num den →
      ((f64Units (f64Make false (roundMag num den)) : Int) * den - num).natAbs =
        ((f64Units (f64Make false m) : Int) * den - num).natAbs → roundMag num den % 2 = 0)) ∧
  (∀ num den : Nat, 0 < den → roundMag num den ≤ f64Inf ∧
    (roundMag num den = f64Inf ↔
      den * (f64Units (f64Make false (f64Inf - 1)) + f64Units (f64Make false f64Inf)) ≤ 2 * num)) ∧
  ∀ a b : F64, isfinite a = true → isfinite b = true →
    (f64Mag (fmul a b) = roundMag (f64Units a * f64Units b) f64One ∧ f64Sign (fmul a b) = (f64Sign a != f64Sign b)) ∧
    (f64Mag b ≠ 0 → f64Mag (fdiv a b) = roundMag (f64Units a * f64One) (f64Units b) ∧
      f64Sign (fdiv a b) = (f64Sign a != f64Sign b)) ∧
    (f64Mag (fadd a b) = roundMag (f64Int a + f64Int b).natAbs 1 ∧
      f64Sign (fadd a b) = (if f64Int a + f64Int b = 0 then f64Sign a && f64Sign b else decide (f64Int a + f64Int b < 0))) ∧
    (f64Mag (fsub a b) = roundMag (f64Int a - f64Int b).natAbs 1 ∧
      f64Sign (fsub a b) = (if f64Int a - f64Int b = 0 then f64Sign a && !f64Sign b else decide (f64Int a - f64Int b < 0)))

/-- R10, R122: the square root is correctly rounded: for a finite positive x the root lies between the midpoints on either
side of the result. Values are counted in least subnormals; X = x·2^2148. -/
def Obligations.SquareRootIsCorrectlyRounded : Prop :=
  ∀ x : F64, isfinite x = true → flt 0 x = true →
    (f64Units (f64Make false (f64Mag (fsqrt x) - 1)) + f64Units (fsqrt x)) ^ 2 ≤ 4 * (f64Units x * f64One) ∧
    4 * (f64Units x * f64One) ≤ (f64Units (fsqrt x) + f64Units (f64Make false (f64Mag (fsqrt x) + 1))) ^ 2 ∧
    f64Sign (fsqrt x) = false ∧ isfinite (fsqrt x) = true

/-! ### Reads of the windows -/

/-- R57, R59, R54: an idle read returns the stored element and changes nothing else: a 4-byte read of HIST[v] or MHIST[i], the
two 4-byte reads of the halves of PDF[i], PDFW[i] and CDFW[i], a 1-byte read of LUT[i] and of an element of RAW, F8IN and
F8OUT. A read of any width that starts below a window's capacity has byte j of its data the byte at offset a + j (R51).
That the other lanes of a 1-byte read are 0 is the model's reading (log entry 9). -/
def Obligations.IdleWindowReadsReturnTheElement : Prop :=
  ∀ (s : State) (rest : List Move), s.busy = false →
    (∀ i < 256,
      (s.moves = .access (.read .word (0x1000 + 4 * i)) :: rest →
        step s = .next { s with moves := rest, response := some ⟨true, some (BitVec.ofNat 32 (s.histAt i))⟩ }) ∧
      (s.moves = .access (.read .word (0x1400 + 4 * i)) :: rest →
        step s = .next { s with moves := rest, response := some ⟨true, some (BitVec.ofNat 32 (s.mhistAt i))⟩ }) ∧
      (s.moves = .access (.read .word (0x1800 + 8 * i)) :: rest →
        step s = .next { s with moves := rest, response := some ⟨true, some ((s.pdfAt i).extractLsb' 0 32)⟩ }) ∧
      (s.moves = .access (.read .word (0x1800 + 8 * i + 4)) :: rest →
        step s = .next { s with moves := rest, response := some ⟨true, some ((s.pdfAt i).extractLsb' 32 32)⟩ }) ∧
      (s.moves = .access (.read .word (0x2000 + 8 * i)) :: rest →
        step s = .next { s with moves := rest, response := some ⟨true, some ((s.pdfwAt i).extractLsb' 0 32)⟩ }) ∧
      (s.moves = .access (.read .word (0x2000 + 8 * i + 4)) :: rest →
        step s = .next { s with moves := rest, response := some ⟨true, some ((s.pdfwAt i).extractLsb' 32 32)⟩ }) ∧
      (s.moves = .access (.read .word (0x2800 + 8 * i)) :: rest →
        step s = .next { s with moves := rest, response := some ⟨true, some ((s.cdfwAt i).extractLsb' 0 32)⟩ }) ∧
      (s.moves = .access (.read .word (0x2800 + 8 * i + 4)) :: rest →
        step s = .next { s with moves := rest, response := some ⟨true, some ((s.cdfwAt i).extractLsb' 32 32)⟩ }) ∧
      (s.moves = .access (.read .byte (0x3000 + i)) :: rest →
        step s = .next { s with moves := rest, response := some ⟨true, some (BitVec.ofNat 32 (s.lutAt i))⟩ })) ∧
    (∀ i < 655360, s.moves = .access (.read .byte (0x01000000 + i)) :: rest →
      step s = .next { s with moves := rest, response := some ⟨true, some (BitVec.ofNat 32 (s.rawAt i).toNat)⟩ }) ∧
    (∀ i < 327680,
      (s.moves = .access (.read .byte (0x03000000 + i)) :: rest →
        step s = .next { s with moves := rest, response := some ⟨true, some (BitVec.ofNat 32 (s.f8inAt i))⟩ }) ∧
      (s.moves = .access (.read .byte (0x04000000 + i)) :: rest →
        step s = .next { s with moves := rest, response := some ⟨true, some (BitVec.ofNat 32 (s.f8outAt i))⟩ })) ∧
    ∀ (size : AccessSize) (a : Nat), s.moves = .access (.read size a) :: rest → a % size.bytes = 0 →
      ((0x1000 ≤ a ∧ a < 0x3100) ∨ (0x01000000 ≤ a ∧ a < 0x01000000 + 655360) ∨
        (0x02000000 ≤ a ∧ a < 0x02000000 + 655360) ∨ (0x03000000 ≤ a ∧ a < 0x03000000 + 327680) ∨
        (0x04000000 ≤ a ∧ a < 0x04000000 + 327680)) →
      ∃ w, step s = .next { s with moves := rest, response := some ⟨true, some w⟩ } ∧
        ∀ j < size.bytes, (w >>> (8 * j)).setWidth 8 = s.byteAt (a + j)
end

