-- ==== Sys2Proof/Laws/Memory.lean ====
section
/-! SUPPORT. The laws of the block's storage: a read after a write, what a write leaves alone, sequences of bytes, and the canonical form, which every memory operation keeps. -/

namespace Sys2Proof.Machine

/-! ### Looking a cell up -/

theorem lookup_filter_of (q : Nat → Bool) (m : List Host.Cell) (a : Nat) (h : q a = true) :
    (m.filter fun c => q c.1).lookup a = m.lookup a := by
  induction m with
  | nil => rfl
  | cons c m ih =>
    obtain ⟨x, v⟩ := c
    by_cases hx : a = x
    · subst hx; simp [h]
    · by_cases hq : q x = true
      · simp [hq, List.lookup_cons, ih, beq_eq_false_iff_ne.mpr hx]
      · simp [hq, List.lookup_cons, ih, beq_eq_false_iff_ne.mpr hx]

theorem lookup_filter_not (q : Nat → Bool) (m : List Host.Cell) (a : Nat) (h : q a = false) :
    (m.filter fun c => q c.1).lookup a = none := by
  induction m with
  | nil => rfl
  | cons c m ih =>
    obtain ⟨x, v⟩ := c
    by_cases hq : q x = true
    · have hx : a ≠ x := by rintro rfl; simp [h] at hq
      simp [hq, List.lookup_cons, ih, beq_eq_false_iff_ne.mpr hx]
    · simp [hq, ih]

theorem lookup_append_left (l r : List Host.Cell) (a : Nat) (h : l.lookup a = none) :
    (l ++ r).lookup a = r.lookup a := by
  induction l with
  | nil => rfl
  | cons c l ih =>
    obtain ⟨x, v⟩ := c
    by_cases hx : a = x
    · subst hx; simp at h
    · rw [List.lookup_cons, beq_eq_false_iff_ne.mpr hx] at h
      rw [List.cons_append, List.lookup_cons, beq_eq_false_iff_ne.mpr hx]
      exact ih h

theorem lookup_append_some (l r : List Host.Cell) (a : Nat) (v : Byte) (h : l.lookup a = some v) :
    (l ++ r).lookup a = some v := by
  induction l with
  | nil => simp at h
  | cons c l ih =>
    obtain ⟨x, w⟩ := c
    by_cases hx : a = x
    · subst hx; simpa using h
    · rw [List.lookup_cons, beq_eq_false_iff_ne.mpr hx] at h
      rw [List.cons_append, List.lookup_cons, beq_eq_false_iff_ne.mpr hx]
      exact ih h

/-! ### Offsets and cells -/

@[simp] theorem offsetsFrom_length (a n : Nat) : (offsetsFrom a n).length = n := by simp [offsetsFrom]

theorem offsetsFrom_succ (a n : Nat) : offsetsFrom a (n + 1) = a :: offsetsFrom (a + 1) n := by
  simp only [offsetsFrom, List.range_succ_eq_map, List.map_cons, List.map_map]
  refine congrArg₂ _ rfl (List.map_congr_left fun j _ => ?_)
  simp only [Function.comp]; omega

theorem cellsFrom_nil (a : Nat) : cellsFrom a [] = [] := rfl

theorem cellsFrom_cons (a : Nat) (b : Byte) (bs : List Byte) :
    cellsFrom a (b :: bs) = (a, b) :: cellsFrom (a + 1) bs := by
  simp [cellsFrom, offsetsFrom_succ]

theorem cellsFrom_lookup (bs : List Byte) (a x : Nat) :
    (cellsFrom a bs).lookup x = if a ≤ x then bs[x - a]? else none := by
  induction bs generalizing a with
  | nil => simp [cellsFrom_nil]
  | cons b bs ih =>
    rw [cellsFrom_cons, List.lookup_cons]
    by_cases hx : x = a
    · subst hx; simp
    · rw [beq_eq_false_iff_ne.mpr hx, ih]
      by_cases hle : a ≤ x
      · have h1 : a + 1 ≤ x := by omega
        have h2 : x - a = (x - (a + 1)) + 1 := by omega
        simp [hle, h1, h2]
      · have h1 : ¬ a + 1 ≤ x := by omega
        simp [hle, h1]

/-- What a write does, said once: the offsets it covers read as its bytes, every other as before. -/
theorem written_write (m : Memory) (a x : Nat) (bs : List Byte) :
    (m.write a bs).written x = if a ≤ x ∧ x < a + bs.length then bs[x - a]? else m.written x := by
  unfold Memory.written Memory.write
  by_cases hlo : x < a
  · have hc : (cellsFrom a bs).lookup x = none := by rw [cellsFrom_lookup]; simp; omega
    have h1 := lookup_filter_of (fun y => decide (y < a)) m x (by simp [hlo])
    cases hm : m.lookup x with
    | none =>
      rw [List.append_assoc, lookup_append_left _ _ _ (h1.trans hm), lookup_append_left _ _ _ hc,
        lookup_filter_not (fun y => decide (a + bs.length ≤ y)) m x (by simp; omega)]
      simp; omega
    | some v =>
      rw [List.append_assoc, lookup_append_some _ _ _ _ (h1.trans hm)]
      rw [if_neg (by omega)]
  · have h1 := lookup_filter_not (fun y => decide (y < a)) m x (by simp; omega)
    rw [List.append_assoc, lookup_append_left _ _ _ h1]
    by_cases hhi : x < a + bs.length
    · have hc : (cellsFrom a bs).lookup x = some (bs[x - a]'(by omega)) := by
        rw [cellsFrom_lookup, if_pos (by omega)]; exact List.getElem?_eq_getElem _
      rw [lookup_append_some _ _ _ _ hc, if_pos (by omega)]
      exact (List.getElem?_eq_getElem _).symm
    · have hc : (cellsFrom a bs).lookup x = none := by
        rw [cellsFrom_lookup, if_pos (by omega)]; exact List.getElem?_eq_none (by omega)
      rw [lookup_append_left _ _ _ hc, lookup_filter_of (fun y => decide (a + bs.length ≤ y)) m x (by simp; omega),
        if_neg (by omega)]

theorem written_write_inside (m : Memory) (a j : Nat) (bs : List Byte) (h : j < bs.length) :
    (m.write a bs).written (a + j) = some bs[j] := by
  rw [written_write, if_pos (by omega), Nat.add_sub_cancel_left]; exact List.getElem?_eq_getElem h

theorem written_write_outside (m : Memory) (a x : Nat) (bs : List Byte) (h : x < a ∨ a + bs.length ≤ x) :
    (m.write a bs).written x = m.written x := by
  rw [written_write, if_neg (by omega)]

theorem byteAt_write_inside (m : Memory) (e a j : Nat) (bs : List Byte) (h : j < bs.length) :
    (m.write a bs).byteAt e (a + j) = bs[j] := by
  simp [Memory.byteAt, written_write_inside m a j bs h]

theorem byteAt_write_outside (m : Memory) (e a x : Nat) (bs : List Byte) (h : x < a ∨ a + bs.length ≤ x) :
    (m.write a bs).byteAt e x = m.byteAt e x := by
  simp [Memory.byteAt, written_write_outside m a x bs h]

/-! ### Reading a sequence of bytes -/

theorem byteAt_cons_ne (c : Host.Cell) (m : Memory) (e a : Nat) (h : c.1 ≠ a) :
    Memory.byteAt (c :: m) e a = Memory.byteAt m e a := by
  obtain ⟨x, v⟩ := c
  simp only [Memory.byteAt, Memory.written, List.lookup_cons, beq_eq_false_iff_ne.mpr (Ne.symm h)]

theorem bytesAt_eq_map (e : Nat) (m : Memory) (as : List Nat) (h : as.Pairwise (· < ·)) :
    Memory.bytesAt e m as = as.map fun a => m.byteAt e a := by
  induction as generalizing m with
  | nil => cases m <;> rfl
  | cons a as ih =>
    have hlt : ∀ b ∈ as, a < b := (List.pairwise_cons.mp h).1
    have ht := (List.pairwise_cons.mp h).2
    cases m with
    | nil => simp [Memory.bytesAt, ih _ ht, Memory.byteAt, Memory.written]
    | cons c m =>
      by_cases hc : c.1 = a
      · rw [Memory.bytesAt, if_pos hc, ih _ ht, List.map_cons]
        refine congrArg₂ _ ?_ (List.map_congr_left fun b hb => ?_)
        · obtain ⟨x, v⟩ := c; simp only at hc; subst hc
          simp [Memory.byteAt, Memory.written]
        · exact (byteAt_cons_ne c m e b (by have := hlt b hb; omega)).symm
      · rw [Memory.bytesAt, if_neg hc, ih _ ht, List.map_cons]

theorem offsetsFrom_pairwise (a n : Nat) : (offsetsFrom a n).Pairwise (· < ·) := by
  induction n generalizing a with
  | zero => simp [offsetsFrom]
  | succ n ih =>
    rw [offsetsFrom_succ, List.pairwise_cons]
    refine ⟨fun b hb => ?_, ih _⟩
    simp only [offsetsFrom, List.mem_map, List.mem_range] at hb
    omega

theorem byteAt_filter_ge (m : Memory) (e a x : Nat) (h : a ≤ x) :
    Memory.byteAt (m.filter fun c => decide (a ≤ c.1)) e x = m.byteAt e x := by
  simp only [Memory.byteAt, Memory.written,
    lookup_filter_of (fun y => decide (a ≤ y)) m x (by simpa using h)]

/-- A read gives `byteAt` of each offset. -/
theorem read_eq_map (m : Memory) (e a n : Nat) :
    m.read e a n = (offsetsFrom a n).map fun x => m.byteAt e x := by
  rw [Memory.read, bytesAt_eq_map _ _ _ (offsetsFrom_pairwise a n)]
  refine List.map_congr_left fun x hx => byteAt_filter_ge m e a x ?_
  simp only [offsetsFrom, List.mem_map, List.mem_range] at hx
  omega

@[simp] theorem read_length (m : Memory) (e a n : Nat) : (m.read e a n).length = n := by
  simp [read_eq_map]

@[simp] theorem read_getElem (m : Memory) (e a n j : Nat) (h : j < (m.read e a n).length) :
    (m.read e a n)[j] = m.byteAt e (a + j) := by
  simp [read_eq_map, offsetsFrom]

theorem read_write_outside (m : Memory) (e a n x : Nat) (bs : List Byte)
    (h : a + n ≤ x ∨ x + bs.length ≤ a) : (m.write x bs).read e a n = m.read e a n := by
  rw [read_eq_map, read_eq_map]
  refine List.map_congr_left fun y hy => byteAt_write_outside m e x y bs ?_
  simp only [offsetsFrom, List.mem_map, List.mem_range] at hy
  omega

theorem read_write_same (m : Memory) (e a : Nat) (bs : List Byte) : (m.write a bs).read e a bs.length = bs := by
  refine List.ext_getElem (by simp) fun j h1 h2 => ?_
  rw [read_getElem, byteAt_write_inside m e a j bs h2]

/-! ### The canonical form -/

theorem wf_iff_pairwise (m : Memory) : m.wf = true ↔ m.Pairwise fun c d => c.1 < d.1 := by
  induction m with
  | nil => simp [Memory.wf]
  | cons c m ih =>
    cases m with
    | nil => simp [Memory.wf]
    | cons d m =>
      rw [Memory.wf, Bool.and_eq_true, decide_eq_true_eq, ih, List.pairwise_cons (a := c)]
      refine ⟨fun ⟨h1, h2⟩ => ⟨fun x hx => ?_, h2⟩, fun ⟨h1, h2⟩ => ⟨h1 d List.mem_cons_self, h2⟩⟩
      rcases List.mem_cons.mp hx with rfl | hx
      · exact h1
      · exact h1.trans ((List.pairwise_cons.mp h2).1 x hx)

theorem mem_cellsFrom {a : Nat} {bs : List Byte} {c : Host.Cell} (h : c ∈ cellsFrom a bs) :
    a ≤ c.1 ∧ c.1 < a + bs.length := by
  induction bs generalizing a with
  | nil => simp [cellsFrom_nil] at h
  | cons b bs ih =>
    rw [cellsFrom_cons, List.mem_cons] at h
    rcases h with rfl | h
    · simp
    · have := ih h; simp only [List.length_cons]; omega

theorem cellsFrom_pairwise (a : Nat) (bs : List Byte) :
    (cellsFrom a bs).Pairwise fun c d => c.1 < d.1 := by
  induction bs generalizing a with
  | nil => simp [cellsFrom_nil]
  | cons b bs ih =>
    rw [cellsFrom_cons, List.pairwise_cons]
    exact ⟨fun d hd => (mem_cellsFrom hd).1, ih _⟩

/-- A write keeps the canonical form. -/
theorem wf_write {m : Memory} (h : m.wf = true) (a : Nat) (bs : List Byte) : (m.write a bs).wf = true := by
  rw [wf_iff_pairwise] at h ⊢
  rw [Memory.write, List.append_assoc, List.pairwise_append, List.pairwise_append]
  refine ⟨h.filter _, ⟨cellsFrom_pairwise a bs, h.filter _, fun c hc d hd => ?_⟩, fun c hc d hd => ?_⟩
  · have h1 := mem_cellsFrom hc
    have h2 := of_decide_eq_true (List.mem_filter.mp hd).2
    omega
  · have h1 : c.1 < a := of_decide_eq_true (List.mem_filter.mp hc).2
    rcases List.mem_append.mp hd with hd | hd
    · exact h1.trans_le (mem_cellsFrom hd).1
    · have h2 : a + bs.length ≤ d.1 := of_decide_eq_true (List.mem_filter.mp hd).2
      omega

/-- A buffer's commit keeps the canonical form. -/
theorem wf_store {m : Memory} (h : m.wf = true) (b : Buffer) (bs : List Byte) : (m.store b bs).wf = true :=
  wf_write h _ bs

/-- A host write's bytes keep the canonical form. -/
theorem wf_storeHostBytes (p : Params) (bs : List Byte) (a : Nat) {m : Memory} (h : m.wf = true) :
    (storeHostBytes p bs a m).wf = true := by
  induction bs generalizing a m with
  | nil => exact h
  | cons b bs ih =>
    rw [storeHostBytes]
    split
    · exact ih _ (wf_write h _ _)
    · exact ih _ h

theorem mem_write {m : Memory} {a : Nat} {bs : List Byte} {c : Host.Cell} (h : c ∈ m.write a bs) :
    c ∈ m ∨ a ≤ c.1 ∧ c.1 < a + bs.length := by
  rw [Memory.write, List.mem_append, List.mem_append] at h
  rcases h with (h | h) | h
  · exact .inl (List.mem_filter.mp h).1
  · exact .inr (mem_cellsFrom h)
  · exact .inl (List.mem_filter.mp h).1

/-- What a host write's bytes do, said once: offset x takes byte x - a where the write covers it and it is
host-writable, and else keeps what it held. -/
theorem written_storeHostBytes (p : Params) (bs : List Byte) (a x : Nat) (m : Memory) :
    (storeHostBytes p bs a m).written x =
      if a ≤ x ∧ x < a + bs.length ∧ hostWritableAt p x = true then bs[x - a]? else m.written x := by
  induction bs generalizing a m with
  | nil => simp [storeHostBytes]; omega
  | cons b bs ih =>
    rw [storeHostBytes, ih]
    by_cases hin : a + 1 ≤ x ∧ x < a + 1 + bs.length ∧ hostWritableAt p x = true
    · rw [if_pos hin, if_pos ⟨by omega, by simp only [List.length_cons]; omega, hin.2.2⟩]
      have h2 : x - a = (x - (a + 1)) + 1 := by omega
      rw [h2, List.getElem?_cons_succ]
    · rw [if_neg hin]
      by_cases hx : x = a
      · subst hx
        by_cases hw : hostWritableAt p x = true
        · rw [if_pos hw, if_pos ⟨le_rfl, by simp, hw⟩, written_write]; simp
        · rw [if_neg hw, if_neg (by simp [hw])]
      · have hn : ¬ (a ≤ x ∧ x < a + (b :: bs).length ∧ hostWritableAt p x = true) := by
          simp only [List.length_cons]; rintro ⟨h1, h2, h3⟩; exact hin ⟨by omega, by omega, h3⟩
        rw [if_neg hn]
        split
        · exact written_write_outside _ _ _ _ (by simp; omega)
        · rfl

end Sys2Proof.Machine
end

