-- ==== Sys2Proof/Laws/State.lean ====
section
/-! SUPPORT. The fields of the state after each named update, one lemma for each field and update. -/

namespace Sys2Proof.Machine

/-! ### State.accept -/

@[simp] theorem State.accept_ctrl (s : State) (w : Word) : (s.accept w).ctrl = s.ctrl := rfl
@[simp] theorem State.accept_status (s : State) (w : Word) : (s.accept w).status = statusAccepted s.status := rfl
@[simp] theorem State.accept_cmd (s : State) (w : Word) : (s.accept w).cmd = w := rfl
@[simp] theorem State.accept_errinfo (s : State) (w : Word) : (s.accept w).errinfo = 0 := rfl
@[simp] theorem State.accept_width (s : State) (w : Word) : (s.accept w).width = s.width := rfl
@[simp] theorem State.accept_height (s : State) (w : Word) : (s.accept w).height = s.height := rfl
@[simp] theorem State.accept_rawLen (s : State) (w : Word) : (s.accept w).rawLen = s.rawLen := rfl
@[simp] theorem State.accept_valid (s : State) (w : Word) : (s.accept w).valid = s.valid := rfl
@[simp] theorem State.accept_threshold (s : State) (w : Word) : (s.accept w).threshold = s.threshold := rfl
@[simp] theorem State.accept_alpha (s : State) (w : Word) : (s.accept w).alpha = s.alpha := rfl
@[simp] theorem State.accept_gain (s : State) (w : Word) : (s.accept w).gain = s.gain := rfl
@[simp] theorem State.accept_minv (s : State) (w : Word) : (s.accept w).minv = s.minv := rfl
@[simp] theorem State.accept_maxv (s : State) (w : Word) : (s.accept w).maxv = s.maxv := rfl
@[simp] theorem State.accept_k (s : State) (w : Word) : (s.accept w).k = s.k := rfl
@[simp] theorem State.accept_count (s : State) (w : Word) : (s.accept w).count = s.count := rfl
@[simp] theorem State.accept_kg (s : State) (w : Word) : (s.accept w).kg = s.kg := rfl
@[simp] theorem State.accept_kprime (s : State) (w : Word) : (s.accept w).kprime = s.kprime := rfl
@[simp] theorem State.accept_kexp (s : State) (w : Word) : (s.accept w).kexp = s.kexp := rfl
@[simp] theorem State.accept_fallback (s : State) (w : Word) : (s.accept w).fallback = s.fallback := rfl
@[simp] theorem State.accept_u (s : State) (w : Word) : (s.accept w).u = s.u := rfl
@[simp] theorem State.accept_pdfmin (s : State) (w : Word) : (s.accept w).pdfmin = s.pdfmin := rfl
@[simp] theorem State.accept_pdfmax (s : State) (w : Word) : (s.accept w).pdfmax = s.pdfmax := rfl
@[simp] theorem State.accept_cdfsum (s : State) (w : Word) : (s.accept w).cdfsum = s.cdfsum := rfl
@[simp] theorem State.accept_mem (s : State) (w : Word) : (s.accept w).mem = s.mem := rfl
@[simp] theorem State.accept_moves (s : State) (w : Word) : (s.accept w).moves = s.moves := rfl
@[simp] theorem State.accept_response (s : State) (w : Word) : (s.accept w).response = s.response := rfl
@[simp] theorem State.accept_epoch (s : State) (w : Word) : (s.accept w).epoch = s.epoch := rfl
@[simp] theorem State.accept_draws (s : State) (w : Word) : (s.accept w).draws = s.draws := rfl

/-! ### State.complete -/

@[simp] theorem State.complete_ctrl (s : State) : (s.complete).ctrl = s.ctrl := rfl
@[simp] theorem State.complete_status (s : State) : (s.complete).status = statusCompleted s.status := rfl
@[simp] theorem State.complete_cmd (s : State) : (s.complete).cmd = s.cmd := rfl
@[simp] theorem State.complete_errinfo (s : State) : (s.complete).errinfo = s.errinfo := rfl
@[simp] theorem State.complete_width (s : State) : (s.complete).width = s.width := rfl
@[simp] theorem State.complete_height (s : State) : (s.complete).height = s.height := rfl
@[simp] theorem State.complete_rawLen (s : State) : (s.complete).rawLen = s.rawLen := rfl
@[simp] theorem State.complete_valid (s : State) : (s.complete).valid = s.valid := rfl
@[simp] theorem State.complete_threshold (s : State) : (s.complete).threshold = s.threshold := rfl
@[simp] theorem State.complete_alpha (s : State) : (s.complete).alpha = s.alpha := rfl
@[simp] theorem State.complete_gain (s : State) : (s.complete).gain = s.gain := rfl
@[simp] theorem State.complete_minv (s : State) : (s.complete).minv = s.minv := rfl
@[simp] theorem State.complete_maxv (s : State) : (s.complete).maxv = s.maxv := rfl
@[simp] theorem State.complete_k (s : State) : (s.complete).k = s.k := rfl
@[simp] theorem State.complete_count (s : State) : (s.complete).count = s.count := rfl
@[simp] theorem State.complete_kg (s : State) : (s.complete).kg = s.kg := rfl
@[simp] theorem State.complete_kprime (s : State) : (s.complete).kprime = s.kprime := rfl
@[simp] theorem State.complete_kexp (s : State) : (s.complete).kexp = s.kexp := rfl
@[simp] theorem State.complete_fallback (s : State) : (s.complete).fallback = s.fallback := rfl
@[simp] theorem State.complete_u (s : State) : (s.complete).u = s.u := rfl
@[simp] theorem State.complete_pdfmin (s : State) : (s.complete).pdfmin = s.pdfmin := rfl
@[simp] theorem State.complete_pdfmax (s : State) : (s.complete).pdfmax = s.pdfmax := rfl
@[simp] theorem State.complete_cdfsum (s : State) : (s.complete).cdfsum = s.cdfsum := rfl
@[simp] theorem State.complete_mem (s : State) : (s.complete).mem = s.mem := rfl
@[simp] theorem State.complete_moves (s : State) : (s.complete).moves = s.moves := rfl
@[simp] theorem State.complete_response (s : State) : (s.complete).response = s.response := rfl
@[simp] theorem State.complete_epoch (s : State) : (s.complete).epoch = s.epoch := rfl
@[simp] theorem State.complete_draws (s : State) : (s.complete).draws = s.draws := rfl

/-! ### State.raise -/

@[simp] theorem State.raise_ctrl (s : State) (e : StageError) : (s.raise e).ctrl = s.ctrl := rfl
@[simp] theorem State.raise_status (s : State) (e : StageError) :
    (s.raise e).status = statusFailed s.status e.code := rfl
@[simp] theorem State.raise_cmd (s : State) (e : StageError) : (s.raise e).cmd = s.cmd := rfl
@[simp] theorem State.raise_errinfo (s : State) (e : StageError) :
    (s.raise e).errinfo = (0 : BitVec 16) ++ e.step ++ e.stage := rfl
@[simp] theorem State.raise_width (s : State) (e : StageError) : (s.raise e).width = s.width := rfl
@[simp] theorem State.raise_height (s : State) (e : StageError) : (s.raise e).height = s.height := rfl
@[simp] theorem State.raise_rawLen (s : State) (e : StageError) : (s.raise e).rawLen = s.rawLen := rfl
@[simp] theorem State.raise_valid (s : State) (e : StageError) : (s.raise e).valid = s.valid := rfl
@[simp] theorem State.raise_threshold (s : State) (e : StageError) : (s.raise e).threshold = s.threshold := rfl
@[simp] theorem State.raise_alpha (s : State) (e : StageError) : (s.raise e).alpha = s.alpha := rfl
@[simp] theorem State.raise_gain (s : State) (e : StageError) : (s.raise e).gain = s.gain := rfl
@[simp] theorem State.raise_minv (s : State) (e : StageError) : (s.raise e).minv = s.minv := rfl
@[simp] theorem State.raise_maxv (s : State) (e : StageError) : (s.raise e).maxv = s.maxv := rfl
@[simp] theorem State.raise_k (s : State) (e : StageError) : (s.raise e).k = s.k := rfl
@[simp] theorem State.raise_count (s : State) (e : StageError) : (s.raise e).count = s.count := rfl
@[simp] theorem State.raise_kg (s : State) (e : StageError) : (s.raise e).kg = s.kg := rfl
@[simp] theorem State.raise_kprime (s : State) (e : StageError) : (s.raise e).kprime = s.kprime := rfl
@[simp] theorem State.raise_kexp (s : State) (e : StageError) : (s.raise e).kexp = s.kexp := rfl
@[simp] theorem State.raise_fallback (s : State) (e : StageError) : (s.raise e).fallback = s.fallback := rfl
@[simp] theorem State.raise_u (s : State) (e : StageError) : (s.raise e).u = s.u := rfl
@[simp] theorem State.raise_pdfmin (s : State) (e : StageError) : (s.raise e).pdfmin = s.pdfmin := rfl
@[simp] theorem State.raise_pdfmax (s : State) (e : StageError) : (s.raise e).pdfmax = s.pdfmax := rfl
@[simp] theorem State.raise_cdfsum (s : State) (e : StageError) : (s.raise e).cdfsum = s.cdfsum := rfl
@[simp] theorem State.raise_mem (s : State) (e : StageError) : (s.raise e).mem = s.mem := rfl
@[simp] theorem State.raise_moves (s : State) (e : StageError) : (s.raise e).moves = s.moves := rfl
@[simp] theorem State.raise_response (s : State) (e : StageError) : (s.raise e).response = s.response := rfl
@[simp] theorem State.raise_epoch (s : State) (e : StageError) : (s.raise e).epoch = s.epoch := rfl
@[simp] theorem State.raise_draws (s : State) (e : StageError) : (s.raise e).draws = s.draws := rfl

/-! ### State.acknowledge -/

@[simp] theorem State.acknowledge_ctrl (s : State) (v : Word) : (s.acknowledge v).ctrl = s.ctrl := rfl
@[simp] theorem State.acknowledge_status (s : State) (v : Word) :
    (s.acknowledge v).status = statusCleared s.status v := rfl
@[simp] theorem State.acknowledge_cmd (s : State) (v : Word) : (s.acknowledge v).cmd = s.cmd := rfl
@[simp] theorem State.acknowledge_errinfo (s : State) (v : Word) : (s.acknowledge v).errinfo = s.errinfo := rfl
@[simp] theorem State.acknowledge_width (s : State) (v : Word) : (s.acknowledge v).width = s.width := rfl
@[simp] theorem State.acknowledge_height (s : State) (v : Word) : (s.acknowledge v).height = s.height := rfl
@[simp] theorem State.acknowledge_rawLen (s : State) (v : Word) : (s.acknowledge v).rawLen = s.rawLen := rfl
@[simp] theorem State.acknowledge_valid (s : State) (v : Word) : (s.acknowledge v).valid = s.valid := rfl
@[simp] theorem State.acknowledge_threshold (s : State) (v : Word) : (s.acknowledge v).threshold = s.threshold := rfl
@[simp] theorem State.acknowledge_alpha (s : State) (v : Word) : (s.acknowledge v).alpha = s.alpha := rfl
@[simp] theorem State.acknowledge_gain (s : State) (v : Word) : (s.acknowledge v).gain = s.gain := rfl
@[simp] theorem State.acknowledge_minv (s : State) (v : Word) : (s.acknowledge v).minv = s.minv := rfl
@[simp] theorem State.acknowledge_maxv (s : State) (v : Word) : (s.acknowledge v).maxv = s.maxv := rfl
@[simp] theorem State.acknowledge_k (s : State) (v : Word) : (s.acknowledge v).k = s.k := rfl
@[simp] theorem State.acknowledge_count (s : State) (v : Word) : (s.acknowledge v).count = s.count := rfl
@[simp] theorem State.acknowledge_kg (s : State) (v : Word) : (s.acknowledge v).kg = s.kg := rfl
@[simp] theorem State.acknowledge_kprime (s : State) (v : Word) : (s.acknowledge v).kprime = s.kprime := rfl
@[simp] theorem State.acknowledge_kexp (s : State) (v : Word) : (s.acknowledge v).kexp = s.kexp := rfl
@[simp] theorem State.acknowledge_fallback (s : State) (v : Word) : (s.acknowledge v).fallback = s.fallback := rfl
@[simp] theorem State.acknowledge_u (s : State) (v : Word) : (s.acknowledge v).u = s.u := rfl
@[simp] theorem State.acknowledge_pdfmin (s : State) (v : Word) : (s.acknowledge v).pdfmin = s.pdfmin := rfl
@[simp] theorem State.acknowledge_pdfmax (s : State) (v : Word) : (s.acknowledge v).pdfmax = s.pdfmax := rfl
@[simp] theorem State.acknowledge_cdfsum (s : State) (v : Word) : (s.acknowledge v).cdfsum = s.cdfsum := rfl
@[simp] theorem State.acknowledge_mem (s : State) (v : Word) : (s.acknowledge v).mem = s.mem := rfl
@[simp] theorem State.acknowledge_moves (s : State) (v : Word) : (s.acknowledge v).moves = s.moves := rfl
@[simp] theorem State.acknowledge_response (s : State) (v : Word) : (s.acknowledge v).response = s.response := rfl
@[simp] theorem State.acknowledge_epoch (s : State) (v : Word) : (s.acknowledge v).epoch = s.epoch := rfl
@[simp] theorem State.acknowledge_draws (s : State) (v : Word) : (s.acknowledge v).draws = s.draws := rfl

/-! ### State.violate -/

@[simp] theorem State.violate_ctrl (s : State) : (s.violate).ctrl = s.ctrl := rfl
@[simp] theorem State.violate_status (s : State) : (s.violate).status = statusViolated s.status := rfl
@[simp] theorem State.violate_cmd (s : State) : (s.violate).cmd = s.cmd := rfl
@[simp] theorem State.violate_errinfo (s : State) : (s.violate).errinfo = s.errinfo := rfl
@[simp] theorem State.violate_width (s : State) : (s.violate).width = s.width := rfl
@[simp] theorem State.violate_height (s : State) : (s.violate).height = s.height := rfl
@[simp] theorem State.violate_rawLen (s : State) : (s.violate).rawLen = s.rawLen := rfl
@[simp] theorem State.violate_valid (s : State) : (s.violate).valid = s.valid := rfl
@[simp] theorem State.violate_threshold (s : State) : (s.violate).threshold = s.threshold := rfl
@[simp] theorem State.violate_alpha (s : State) : (s.violate).alpha = s.alpha := rfl
@[simp] theorem State.violate_gain (s : State) : (s.violate).gain = s.gain := rfl
@[simp] theorem State.violate_minv (s : State) : (s.violate).minv = s.minv := rfl
@[simp] theorem State.violate_maxv (s : State) : (s.violate).maxv = s.maxv := rfl
@[simp] theorem State.violate_k (s : State) : (s.violate).k = s.k := rfl
@[simp] theorem State.violate_count (s : State) : (s.violate).count = s.count := rfl
@[simp] theorem State.violate_kg (s : State) : (s.violate).kg = s.kg := rfl
@[simp] theorem State.violate_kprime (s : State) : (s.violate).kprime = s.kprime := rfl
@[simp] theorem State.violate_kexp (s : State) : (s.violate).kexp = s.kexp := rfl
@[simp] theorem State.violate_fallback (s : State) : (s.violate).fallback = s.fallback := rfl
@[simp] theorem State.violate_u (s : State) : (s.violate).u = s.u := rfl
@[simp] theorem State.violate_pdfmin (s : State) : (s.violate).pdfmin = s.pdfmin := rfl
@[simp] theorem State.violate_pdfmax (s : State) : (s.violate).pdfmax = s.pdfmax := rfl
@[simp] theorem State.violate_cdfsum (s : State) : (s.violate).cdfsum = s.cdfsum := rfl
@[simp] theorem State.violate_mem (s : State) : (s.violate).mem = s.mem := rfl
@[simp] theorem State.violate_moves (s : State) : (s.violate).moves = s.moves := rfl
@[simp] theorem State.violate_response (s : State) : (s.violate).response = s.response := rfl
@[simp] theorem State.violate_epoch (s : State) : (s.violate).epoch = s.epoch := rfl
@[simp] theorem State.violate_draws (s : State) : (s.violate).draws = s.draws := rfl

/-! ### State.respondOkay -/

@[simp] theorem State.respondOkay_ctrl (s : State) (d : Option Word) : (s.respondOkay d).ctrl = s.ctrl := rfl
@[simp] theorem State.respondOkay_status (s : State) (d : Option Word) : (s.respondOkay d).status = s.status := rfl
@[simp] theorem State.respondOkay_cmd (s : State) (d : Option Word) : (s.respondOkay d).cmd = s.cmd := rfl
@[simp] theorem State.respondOkay_errinfo (s : State) (d : Option Word) : (s.respondOkay d).errinfo = s.errinfo := rfl
@[simp] theorem State.respondOkay_width (s : State) (d : Option Word) : (s.respondOkay d).width = s.width := rfl
@[simp] theorem State.respondOkay_height (s : State) (d : Option Word) : (s.respondOkay d).height = s.height := rfl
@[simp] theorem State.respondOkay_rawLen (s : State) (d : Option Word) : (s.respondOkay d).rawLen = s.rawLen := rfl
@[simp] theorem State.respondOkay_valid (s : State) (d : Option Word) : (s.respondOkay d).valid = s.valid := rfl
@[simp] theorem State.respondOkay_threshold (s : State) (d : Option Word) :
    (s.respondOkay d).threshold = s.threshold := rfl
@[simp] theorem State.respondOkay_alpha (s : State) (d : Option Word) : (s.respondOkay d).alpha = s.alpha := rfl
@[simp] theorem State.respondOkay_gain (s : State) (d : Option Word) : (s.respondOkay d).gain = s.gain := rfl
@[simp] theorem State.respondOkay_minv (s : State) (d : Option Word) : (s.respondOkay d).minv = s.minv := rfl
@[simp] theorem State.respondOkay_maxv (s : State) (d : Option Word) : (s.respondOkay d).maxv = s.maxv := rfl
@[simp] theorem State.respondOkay_k (s : State) (d : Option Word) : (s.respondOkay d).k = s.k := rfl
@[simp] theorem State.respondOkay_count (s : State) (d : Option Word) : (s.respondOkay d).count = s.count := rfl
@[simp] theorem State.respondOkay_kg (s : State) (d : Option Word) : (s.respondOkay d).kg = s.kg := rfl
@[simp] theorem State.respondOkay_kprime (s : State) (d : Option Word) : (s.respondOkay d).kprime = s.kprime := rfl
@[simp] theorem State.respondOkay_kexp (s : State) (d : Option Word) : (s.respondOkay d).kexp = s.kexp := rfl
@[simp] theorem State.respondOkay_fallback (s : State) (d : Option Word) :
    (s.respondOkay d).fallback = s.fallback := rfl
@[simp] theorem State.respondOkay_u (s : State) (d : Option Word) : (s.respondOkay d).u = s.u := rfl
@[simp] theorem State.respondOkay_pdfmin (s : State) (d : Option Word) : (s.respondOkay d).pdfmin = s.pdfmin := rfl
@[simp] theorem State.respondOkay_pdfmax (s : State) (d : Option Word) : (s.respondOkay d).pdfmax = s.pdfmax := rfl
@[simp] theorem State.respondOkay_cdfsum (s : State) (d : Option Word) : (s.respondOkay d).cdfsum = s.cdfsum := rfl
@[simp] theorem State.respondOkay_mem (s : State) (d : Option Word) : (s.respondOkay d).mem = s.mem := rfl
@[simp] theorem State.respondOkay_moves (s : State) (d : Option Word) : (s.respondOkay d).moves = s.moves := rfl
@[simp] theorem State.respondOkay_response (s : State) (d : Option Word) :
    (s.respondOkay d).response = some ⟨true, d⟩ := rfl
@[simp] theorem State.respondOkay_epoch (s : State) (d : Option Word) : (s.respondOkay d).epoch = s.epoch := rfl
@[simp] theorem State.respondOkay_draws (s : State) (d : Option Word) : (s.respondOkay d).draws = s.draws := rfl

/-! ### State.respondError -/

@[simp] theorem State.respondError_ctrl (s : State) (d : Option Word) : (s.respondError d).ctrl = s.ctrl := rfl
@[simp] theorem State.respondError_status (s : State) (d : Option Word) : (s.respondError d).status = s.status := rfl
@[simp] theorem State.respondError_cmd (s : State) (d : Option Word) : (s.respondError d).cmd = s.cmd := rfl
@[simp] theorem State.respondError_errinfo (s : State) (d : Option Word) :
    (s.respondError d).errinfo = s.errinfo := rfl
@[simp] theorem State.respondError_width (s : State) (d : Option Word) : (s.respondError d).width = s.width := rfl
@[simp] theorem State.respondError_height (s : State) (d : Option Word) : (s.respondError d).height = s.height := rfl
@[simp] theorem State.respondError_rawLen (s : State) (d : Option Word) : (s.respondError d).rawLen = s.rawLen := rfl
@[simp] theorem State.respondError_valid (s : State) (d : Option Word) : (s.respondError d).valid = s.valid := rfl
@[simp] theorem State.respondError_threshold (s : State) (d : Option Word) :
    (s.respondError d).threshold = s.threshold := rfl
@[simp] theorem State.respondError_alpha (s : State) (d : Option Word) : (s.respondError d).alpha = s.alpha := rfl
@[simp] theorem State.respondError_gain (s : State) (d : Option Word) : (s.respondError d).gain = s.gain := rfl
@[simp] theorem State.respondError_minv (s : State) (d : Option Word) : (s.respondError d).minv = s.minv := rfl
@[simp] theorem State.respondError_maxv (s : State) (d : Option Word) : (s.respondError d).maxv = s.maxv := rfl
@[simp] theorem State.respondError_k (s : State) (d : Option Word) : (s.respondError d).k = s.k := rfl
@[simp] theorem State.respondError_count (s : State) (d : Option Word) : (s.respondError d).count = s.count := rfl
@[simp] theorem State.respondError_kg (s : State) (d : Option Word) : (s.respondError d).kg = s.kg := rfl
@[simp] theorem State.respondError_kprime (s : State) (d : Option Word) : (s.respondError d).kprime = s.kprime := rfl
@[simp] theorem State.respondError_kexp (s : State) (d : Option Word) : (s.respondError d).kexp = s.kexp := rfl
@[simp] theorem State.respondError_fallback (s : State) (d : Option Word) :
    (s.respondError d).fallback = s.fallback := rfl
@[simp] theorem State.respondError_u (s : State) (d : Option Word) : (s.respondError d).u = s.u := rfl
@[simp] theorem State.respondError_pdfmin (s : State) (d : Option Word) : (s.respondError d).pdfmin = s.pdfmin := rfl
@[simp] theorem State.respondError_pdfmax (s : State) (d : Option Word) : (s.respondError d).pdfmax = s.pdfmax := rfl
@[simp] theorem State.respondError_cdfsum (s : State) (d : Option Word) : (s.respondError d).cdfsum = s.cdfsum := rfl
@[simp] theorem State.respondError_mem (s : State) (d : Option Word) : (s.respondError d).mem = s.mem := rfl
@[simp] theorem State.respondError_moves (s : State) (d : Option Word) : (s.respondError d).moves = s.moves := rfl
@[simp] theorem State.respondError_response (s : State) (d : Option Word) :
    (s.respondError d).response = some ⟨false, d⟩ := rfl
@[simp] theorem State.respondError_epoch (s : State) (d : Option Word) : (s.respondError d).epoch = s.epoch := rfl
@[simp] theorem State.respondError_draws (s : State) (d : Option Word) : (s.respondError d).draws = s.draws := rfl

/-! ### State.setGeometry -/

@[simp] theorem State.setGeometry_ctrl (s : State) (w h : Word) : (s.setGeometry w h).ctrl = s.ctrl := rfl
@[simp] theorem State.setGeometry_status (s : State) (w h : Word) : (s.setGeometry w h).status = s.status := rfl
@[simp] theorem State.setGeometry_cmd (s : State) (w h : Word) : (s.setGeometry w h).cmd = s.cmd := rfl
@[simp] theorem State.setGeometry_errinfo (s : State) (w h : Word) : (s.setGeometry w h).errinfo = s.errinfo := rfl
@[simp] theorem State.setGeometry_width (s : State) (w h : Word) : (s.setGeometry w h).width = w := rfl
@[simp] theorem State.setGeometry_height (s : State) (w h : Word) : (s.setGeometry w h).height = h := rfl
@[simp] theorem State.setGeometry_rawLen (s : State) (w h : Word) : (s.setGeometry w h).rawLen = s.rawLen := rfl
@[simp] theorem State.setGeometry_valid (s : State) (w h : Word) : (s.setGeometry w h).valid = 0 := rfl
@[simp] theorem State.setGeometry_threshold (s : State) (w h : Word) :
    (s.setGeometry w h).threshold = s.threshold := rfl
@[simp] theorem State.setGeometry_alpha (s : State) (w h : Word) : (s.setGeometry w h).alpha = s.alpha := rfl
@[simp] theorem State.setGeometry_gain (s : State) (w h : Word) : (s.setGeometry w h).gain = s.gain := rfl
@[simp] theorem State.setGeometry_minv (s : State) (w h : Word) : (s.setGeometry w h).minv = s.minv := rfl
@[simp] theorem State.setGeometry_maxv (s : State) (w h : Word) : (s.setGeometry w h).maxv = s.maxv := rfl
@[simp] theorem State.setGeometry_k (s : State) (w h : Word) : (s.setGeometry w h).k = s.k := rfl
@[simp] theorem State.setGeometry_count (s : State) (w h : Word) : (s.setGeometry w h).count = s.count := rfl
@[simp] theorem State.setGeometry_kg (s : State) (w h : Word) : (s.setGeometry w h).kg = s.kg := rfl
@[simp] theorem State.setGeometry_kprime (s : State) (w h : Word) : (s.setGeometry w h).kprime = s.kprime := rfl
@[simp] theorem State.setGeometry_kexp (s : State) (w h : Word) : (s.setGeometry w h).kexp = s.kexp := rfl
@[simp] theorem State.setGeometry_fallback (s : State) (w h : Word) : (s.setGeometry w h).fallback = s.fallback := rfl
@[simp] theorem State.setGeometry_u (s : State) (w h : Word) : (s.setGeometry w h).u = s.u := rfl
@[simp] theorem State.setGeometry_pdfmin (s : State) (w h : Word) : (s.setGeometry w h).pdfmin = s.pdfmin := rfl
@[simp] theorem State.setGeometry_pdfmax (s : State) (w h : Word) : (s.setGeometry w h).pdfmax = s.pdfmax := rfl
@[simp] theorem State.setGeometry_cdfsum (s : State) (w h : Word) : (s.setGeometry w h).cdfsum = s.cdfsum := rfl
@[simp] theorem State.setGeometry_mem (s : State) (w h : Word) : (s.setGeometry w h).mem = s.mem := rfl
@[simp] theorem State.setGeometry_moves (s : State) (w h : Word) : (s.setGeometry w h).moves = s.moves := rfl
@[simp] theorem State.setGeometry_response (s : State) (w h : Word) : (s.setGeometry w h).response = s.response := rfl
@[simp] theorem State.setGeometry_epoch (s : State) (w h : Word) : (s.setGeometry w h).epoch = s.epoch := rfl
@[simp] theorem State.setGeometry_draws (s : State) (w h : Word) : (s.setGeometry w h).draws = s.draws := rfl

/-! ### commitF16 -/

@[simp] theorem commitF16_ctrl (xs : List Half) (s : State) : (commitF16 xs s).ctrl = s.ctrl := rfl
@[simp] theorem commitF16_status (xs : List Half) (s : State) : (commitF16 xs s).status = s.status := rfl
@[simp] theorem commitF16_cmd (xs : List Half) (s : State) : (commitF16 xs s).cmd = s.cmd := rfl
@[simp] theorem commitF16_errinfo (xs : List Half) (s : State) : (commitF16 xs s).errinfo = s.errinfo := rfl
@[simp] theorem commitF16_width (xs : List Half) (s : State) : (commitF16 xs s).width = s.width := rfl
@[simp] theorem commitF16_height (xs : List Half) (s : State) : (commitF16 xs s).height = s.height := rfl
@[simp] theorem commitF16_rawLen (xs : List Half) (s : State) : (commitF16 xs s).rawLen = s.rawLen := rfl
@[simp] theorem commitF16_valid (xs : List Half) (s : State) : (commitF16 xs s).valid = setBit s.valid 0 true := rfl
@[simp] theorem commitF16_threshold (xs : List Half) (s : State) : (commitF16 xs s).threshold = s.threshold := rfl
@[simp] theorem commitF16_alpha (xs : List Half) (s : State) : (commitF16 xs s).alpha = s.alpha := rfl
@[simp] theorem commitF16_gain (xs : List Half) (s : State) : (commitF16 xs s).gain = s.gain := rfl
@[simp] theorem commitF16_minv (xs : List Half) (s : State) : (commitF16 xs s).minv = s.minv := rfl
@[simp] theorem commitF16_maxv (xs : List Half) (s : State) : (commitF16 xs s).maxv = s.maxv := rfl
@[simp] theorem commitF16_k (xs : List Half) (s : State) : (commitF16 xs s).k = s.k := rfl
@[simp] theorem commitF16_count (xs : List Half) (s : State) : (commitF16 xs s).count = s.count := rfl
@[simp] theorem commitF16_kg (xs : List Half) (s : State) : (commitF16 xs s).kg = s.kg := rfl
@[simp] theorem commitF16_kprime (xs : List Half) (s : State) : (commitF16 xs s).kprime = s.kprime := rfl
@[simp] theorem commitF16_kexp (xs : List Half) (s : State) : (commitF16 xs s).kexp = s.kexp := rfl
@[simp] theorem commitF16_fallback (xs : List Half) (s : State) : (commitF16 xs s).fallback = s.fallback := rfl
@[simp] theorem commitF16_u (xs : List Half) (s : State) : (commitF16 xs s).u = s.u := rfl
@[simp] theorem commitF16_pdfmin (xs : List Half) (s : State) : (commitF16 xs s).pdfmin = s.pdfmin := rfl
@[simp] theorem commitF16_pdfmax (xs : List Half) (s : State) : (commitF16 xs s).pdfmax = s.pdfmax := rfl
@[simp] theorem commitF16_cdfsum (xs : List Half) (s : State) : (commitF16 xs s).cdfsum = s.cdfsum := rfl
@[simp] theorem commitF16_mem (xs : List Half) (s : State) :
    (commitF16 xs s).mem = s.mem.store .f16 (xs.flatMap halfBytes) := rfl
@[simp] theorem commitF16_moves (xs : List Half) (s : State) : (commitF16 xs s).moves = s.moves := rfl
@[simp] theorem commitF16_response (xs : List Half) (s : State) : (commitF16 xs s).response = s.response := rfl
@[simp] theorem commitF16_epoch (xs : List Half) (s : State) : (commitF16 xs s).epoch = s.epoch := rfl
@[simp] theorem commitF16_draws (xs : List Half) (s : State) : (commitF16 xs s).draws = s.draws := rfl

/-! ### commitCompress -/

@[simp] theorem commitCompress_ctrl (px : List Byte) (lo hi : Nat) (flat : Bool) (s : State) :
    (commitCompress px lo hi flat s).ctrl = s.ctrl := rfl
@[simp] theorem commitCompress_status (px : List Byte) (lo hi : Nat) (flat : Bool) (s : State) :
    (commitCompress px lo hi flat s).status = s.status := rfl
@[simp] theorem commitCompress_cmd (px : List Byte) (lo hi : Nat) (flat : Bool) (s : State) :
    (commitCompress px lo hi flat s).cmd = s.cmd := rfl
@[simp] theorem commitCompress_errinfo (px : List Byte) (lo hi : Nat) (flat : Bool) (s : State) :
    (commitCompress px lo hi flat s).errinfo = s.errinfo := rfl
@[simp] theorem commitCompress_width (px : List Byte) (lo hi : Nat) (flat : Bool) (s : State) :
    (commitCompress px lo hi flat s).width = s.width := rfl
@[simp] theorem commitCompress_height (px : List Byte) (lo hi : Nat) (flat : Bool) (s : State) :
    (commitCompress px lo hi flat s).height = s.height := rfl
@[simp] theorem commitCompress_rawLen (px : List Byte) (lo hi : Nat) (flat : Bool) (s : State) :
    (commitCompress px lo hi flat s).rawLen = s.rawLen := rfl
@[simp] theorem commitCompress_valid (px : List Byte) (lo hi : Nat) (flat : Bool) (s : State) :
    (commitCompress px lo hi flat s).valid = setBit s.valid 1 true := rfl
@[simp] theorem commitCompress_threshold (px : List Byte) (lo hi : Nat) (flat : Bool) (s : State) :
    (commitCompress px lo hi flat s).threshold = s.threshold := rfl
@[simp] theorem commitCompress_alpha (px : List Byte) (lo hi : Nat) (flat : Bool) (s : State) :
    (commitCompress px lo hi flat s).alpha = s.alpha := rfl
@[simp] theorem commitCompress_gain (px : List Byte) (lo hi : Nat) (flat : Bool) (s : State) :
    (commitCompress px lo hi flat s).gain = s.gain := rfl
@[simp] theorem commitCompress_minv (px : List Byte) (lo hi : Nat) (flat : Bool) (s : State) :
    (commitCompress px lo hi flat s).minv = BitVec.ofNat 32 lo := rfl
@[simp] theorem commitCompress_maxv (px : List Byte) (lo hi : Nat) (flat : Bool) (s : State) :
    (commitCompress px lo hi flat s).maxv = BitVec.ofNat 32 hi := rfl
@[simp] theorem commitCompress_k (px : List Byte) (lo hi : Nat) (flat : Bool) (s : State) :
    (commitCompress px lo hi flat s).k = s.k := rfl
@[simp] theorem commitCompress_count (px : List Byte) (lo hi : Nat) (flat : Bool) (s : State) :
    (commitCompress px lo hi flat s).count = s.count := rfl
@[simp] theorem commitCompress_kg (px : List Byte) (lo hi : Nat) (flat : Bool) (s : State) :
    (commitCompress px lo hi flat s).kg = s.kg := rfl
@[simp] theorem commitCompress_kprime (px : List Byte) (lo hi : Nat) (flat : Bool) (s : State) :
    (commitCompress px lo hi flat s).kprime = s.kprime := rfl
@[simp] theorem commitCompress_kexp (px : List Byte) (lo hi : Nat) (flat : Bool) (s : State) :
    (commitCompress px lo hi flat s).kexp = s.kexp := rfl
@[simp] theorem commitCompress_fallback (px : List Byte) (lo hi : Nat) (flat : Bool) (s : State) :
    (commitCompress px lo hi flat s).fallback = fallbackCompress s.fallback flat := rfl
@[simp] theorem commitCompress_u (px : List Byte) (lo hi : Nat) (flat : Bool) (s : State) :
    (commitCompress px lo hi flat s).u = s.u := rfl
@[simp] theorem commitCompress_pdfmin (px : List Byte) (lo hi : Nat) (flat : Bool) (s : State) :
    (commitCompress px lo hi flat s).pdfmin = s.pdfmin := rfl
@[simp] theorem commitCompress_pdfmax (px : List Byte) (lo hi : Nat) (flat : Bool) (s : State) :
    (commitCompress px lo hi flat s).pdfmax = s.pdfmax := rfl
@[simp] theorem commitCompress_cdfsum (px : List Byte) (lo hi : Nat) (flat : Bool) (s : State) :
    (commitCompress px lo hi flat s).cdfsum = s.cdfsum := rfl
@[simp] theorem commitCompress_mem (px : List Byte) (lo hi : Nat) (flat : Bool) (s : State) :
    (commitCompress px lo hi flat s).mem = s.mem.store .f8in px := rfl
@[simp] theorem commitCompress_moves (px : List Byte) (lo hi : Nat) (flat : Bool) (s : State) :
    (commitCompress px lo hi flat s).moves = s.moves := rfl
@[simp] theorem commitCompress_response (px : List Byte) (lo hi : Nat) (flat : Bool) (s : State) :
    (commitCompress px lo hi flat s).response = s.response := rfl
@[simp] theorem commitCompress_epoch (px : List Byte) (lo hi : Nat) (flat : Bool) (s : State) :
    (commitCompress px lo hi flat s).epoch = s.epoch := rfl
@[simp] theorem commitCompress_draws (px : List Byte) (lo hi : Nat) (flat : Bool) (s : State) :
    (commitCompress px lo hi flat s).draws = s.draws := rfl

/-! ### commitHist -/

@[simp] theorem commitHist_ctrl (bins : List Nat) (k n : Nat) (s : State) :
    (commitHist bins k n s).ctrl = s.ctrl := rfl
@[simp] theorem commitHist_status (bins : List Nat) (k n : Nat) (s : State) :
    (commitHist bins k n s).status = s.status := rfl
@[simp] theorem commitHist_cmd (bins : List Nat) (k n : Nat) (s : State) : (commitHist bins k n s).cmd = s.cmd := rfl
@[simp] theorem commitHist_errinfo (bins : List Nat) (k n : Nat) (s : State) :
    (commitHist bins k n s).errinfo = s.errinfo := rfl
@[simp] theorem commitHist_width (bins : List Nat) (k n : Nat) (s : State) :
    (commitHist bins k n s).width = s.width := rfl
@[simp] theorem commitHist_height (bins : List Nat) (k n : Nat) (s : State) :
    (commitHist bins k n s).height = s.height := rfl
@[simp] theorem commitHist_rawLen (bins : List Nat) (k n : Nat) (s : State) :
    (commitHist bins k n s).rawLen = s.rawLen := rfl
@[simp] theorem commitHist_valid (bins : List Nat) (k n : Nat) (s : State) :
    (commitHist bins k n s).valid = setBit s.valid 2 true := rfl
@[simp] theorem commitHist_threshold (bins : List Nat) (k n : Nat) (s : State) :
    (commitHist bins k n s).threshold = s.threshold := rfl
@[simp] theorem commitHist_alpha (bins : List Nat) (k n : Nat) (s : State) :
    (commitHist bins k n s).alpha = s.alpha := rfl
@[simp] theorem commitHist_gain (bins : List Nat) (k n : Nat) (s : State) :
    (commitHist bins k n s).gain = s.gain := rfl
@[simp] theorem commitHist_minv (bins : List Nat) (k n : Nat) (s : State) :
    (commitHist bins k n s).minv = s.minv := rfl
@[simp] theorem commitHist_maxv (bins : List Nat) (k n : Nat) (s : State) :
    (commitHist bins k n s).maxv = s.maxv := rfl
@[simp] theorem commitHist_k (bins : List Nat) (k n : Nat) (s : State) :
    (commitHist bins k n s).k = BitVec.ofNat 32 k := rfl
@[simp] theorem commitHist_count (bins : List Nat) (k n : Nat) (s : State) :
    (commitHist bins k n s).count = BitVec.ofNat 32 n := rfl
@[simp] theorem commitHist_kg (bins : List Nat) (k n : Nat) (s : State) : (commitHist bins k n s).kg = s.kg := rfl
@[simp] theorem commitHist_kprime (bins : List Nat) (k n : Nat) (s : State) :
    (commitHist bins k n s).kprime = s.kprime := rfl
@[simp] theorem commitHist_kexp (bins : List Nat) (k n : Nat) (s : State) :
    (commitHist bins k n s).kexp = s.kexp := rfl
@[simp] theorem commitHist_fallback (bins : List Nat) (k n : Nat) (s : State) :
    (commitHist bins k n s).fallback = s.fallback := rfl
@[simp] theorem commitHist_u (bins : List Nat) (k n : Nat) (s : State) : (commitHist bins k n s).u = s.u := rfl
@[simp] theorem commitHist_pdfmin (bins : List Nat) (k n : Nat) (s : State) :
    (commitHist bins k n s).pdfmin = s.pdfmin := rfl
@[simp] theorem commitHist_pdfmax (bins : List Nat) (k n : Nat) (s : State) :
    (commitHist bins k n s).pdfmax = s.pdfmax := rfl
@[simp] theorem commitHist_cdfsum (bins : List Nat) (k n : Nat) (s : State) :
    (commitHist bins k n s).cdfsum = s.cdfsum := rfl
@[simp] theorem commitHist_mem (bins : List Nat) (k n : Nat) (s : State) :
    (commitHist bins k n s).mem = s.mem.store .hist (bins.flatMap fun x => wordElemBytes (BitVec.ofNat 32 x)) := rfl
@[simp] theorem commitHist_moves (bins : List Nat) (k n : Nat) (s : State) :
    (commitHist bins k n s).moves = s.moves := rfl
@[simp] theorem commitHist_response (bins : List Nat) (k n : Nat) (s : State) :
    (commitHist bins k n s).response = s.response := rfl
@[simp] theorem commitHist_epoch (bins : List Nat) (k n : Nat) (s : State) :
    (commitHist bins k n s).epoch = s.epoch := rfl
@[simp] theorem commitHist_draws (bins : List Nat) (k n : Nat) (s : State) :
    (commitHist bins k n s).draws = s.draws := rfl

/-! ### commitTone -/

@[simp] theorem commitTone_ctrl (r : ToneResult) (s : State) : (commitTone r s).ctrl = s.ctrl := rfl
@[simp] theorem commitTone_status (r : ToneResult) (s : State) : (commitTone r s).status = s.status := rfl
@[simp] theorem commitTone_cmd (r : ToneResult) (s : State) : (commitTone r s).cmd = s.cmd := rfl
@[simp] theorem commitTone_errinfo (r : ToneResult) (s : State) : (commitTone r s).errinfo = s.errinfo := rfl
@[simp] theorem commitTone_width (r : ToneResult) (s : State) : (commitTone r s).width = s.width := rfl
@[simp] theorem commitTone_height (r : ToneResult) (s : State) : (commitTone r s).height = s.height := rfl
@[simp] theorem commitTone_rawLen (r : ToneResult) (s : State) : (commitTone r s).rawLen = s.rawLen := rfl
@[simp] theorem commitTone_valid (r : ToneResult) (s : State) : (commitTone r s).valid = setBit s.valid 3 true := rfl
@[simp] theorem commitTone_threshold (r : ToneResult) (s : State) : (commitTone r s).threshold = s.threshold := rfl
@[simp] theorem commitTone_alpha (r : ToneResult) (s : State) : (commitTone r s).alpha = s.alpha := rfl
@[simp] theorem commitTone_gain (r : ToneResult) (s : State) : (commitTone r s).gain = s.gain := rfl
@[simp] theorem commitTone_minv (r : ToneResult) (s : State) : (commitTone r s).minv = s.minv := rfl
@[simp] theorem commitTone_maxv (r : ToneResult) (s : State) : (commitTone r s).maxv = s.maxv := rfl
@[simp] theorem commitTone_k (r : ToneResult) (s : State) : (commitTone r s).k = s.k := rfl
@[simp] theorem commitTone_count (r : ToneResult) (s : State) : (commitTone r s).count = s.count := rfl
@[simp] theorem commitTone_kg (r : ToneResult) (s : State) : (commitTone r s).kg = r.blend.kg := rfl
@[simp] theorem commitTone_kprime (r : ToneResult) (s : State) : (commitTone r s).kprime = r.blend.kprime := rfl
@[simp] theorem commitTone_kexp (r : ToneResult) (s : State) :
    (commitTone r s).kexp = BitVec.ofInt 32 r.blend.e := rfl
@[simp] theorem commitTone_fallback (r : ToneResult) (s : State) :
    (commitTone r s).fallback = fallbackTone s.fallback r.blend.fallback r.pdfFallback := rfl
@[simp] theorem commitTone_u (r : ToneResult) (s : State) : (commitTone r s).u = r.u := rfl
@[simp] theorem commitTone_pdfmin (r : ToneResult) (s : State) : (commitTone r s).pdfmin = r.pdfmin := rfl
@[simp] theorem commitTone_pdfmax (r : ToneResult) (s : State) : (commitTone r s).pdfmax = r.pdfmax := rfl
@[simp] theorem commitTone_cdfsum (r : ToneResult) (s : State) : (commitTone r s).cdfsum = r.cdfsum := rfl
@[simp] theorem commitTone_mem (r : ToneResult) (s : State) : (commitTone r s).mem = toneStore r s.mem := rfl
@[simp] theorem commitTone_moves (r : ToneResult) (s : State) : (commitTone r s).moves = s.moves := rfl
@[simp] theorem commitTone_response (r : ToneResult) (s : State) : (commitTone r s).response = s.response := rfl
@[simp] theorem commitTone_epoch (r : ToneResult) (s : State) : (commitTone r s).epoch = s.epoch := rfl
@[simp] theorem commitTone_draws (r : ToneResult) (s : State) : (commitTone r s).draws = s.draws := rfl

/-! ### commitRemap -/

@[simp] theorem commitRemap_ctrl (px : List Byte) (s : State) : (commitRemap px s).ctrl = s.ctrl := rfl
@[simp] theorem commitRemap_status (px : List Byte) (s : State) : (commitRemap px s).status = s.status := rfl
@[simp] theorem commitRemap_cmd (px : List Byte) (s : State) : (commitRemap px s).cmd = s.cmd := rfl
@[simp] theorem commitRemap_errinfo (px : List Byte) (s : State) : (commitRemap px s).errinfo = s.errinfo := rfl
@[simp] theorem commitRemap_width (px : List Byte) (s : State) : (commitRemap px s).width = s.width := rfl
@[simp] theorem commitRemap_height (px : List Byte) (s : State) : (commitRemap px s).height = s.height := rfl
@[simp] theorem commitRemap_rawLen (px : List Byte) (s : State) : (commitRemap px s).rawLen = s.rawLen := rfl
@[simp] theorem commitRemap_valid (px : List Byte) (s : State) :
    (commitRemap px s).valid = setBit s.valid 4 true := rfl
@[simp] theorem commitRemap_threshold (px : List Byte) (s : State) : (commitRemap px s).threshold = s.threshold := rfl
@[simp] theorem commitRemap_alpha (px : List Byte) (s : State) : (commitRemap px s).alpha = s.alpha := rfl
@[simp] theorem commitRemap_gain (px : List Byte) (s : State) : (commitRemap px s).gain = s.gain := rfl
@[simp] theorem commitRemap_minv (px : List Byte) (s : State) : (commitRemap px s).minv = s.minv := rfl
@[simp] theorem commitRemap_maxv (px : List Byte) (s : State) : (commitRemap px s).maxv = s.maxv := rfl
@[simp] theorem commitRemap_k (px : List Byte) (s : State) : (commitRemap px s).k = s.k := rfl
@[simp] theorem commitRemap_count (px : List Byte) (s : State) : (commitRemap px s).count = s.count := rfl
@[simp] theorem commitRemap_kg (px : List Byte) (s : State) : (commitRemap px s).kg = s.kg := rfl
@[simp] theorem commitRemap_kprime (px : List Byte) (s : State) : (commitRemap px s).kprime = s.kprime := rfl
@[simp] theorem commitRemap_kexp (px : List Byte) (s : State) : (commitRemap px s).kexp = s.kexp := rfl
@[simp] theorem commitRemap_fallback (px : List Byte) (s : State) : (commitRemap px s).fallback = s.fallback := rfl
@[simp] theorem commitRemap_u (px : List Byte) (s : State) : (commitRemap px s).u = s.u := rfl
@[simp] theorem commitRemap_pdfmin (px : List Byte) (s : State) : (commitRemap px s).pdfmin = s.pdfmin := rfl
@[simp] theorem commitRemap_pdfmax (px : List Byte) (s : State) : (commitRemap px s).pdfmax = s.pdfmax := rfl
@[simp] theorem commitRemap_cdfsum (px : List Byte) (s : State) : (commitRemap px s).cdfsum = s.cdfsum := rfl
@[simp] theorem commitRemap_mem (px : List Byte) (s : State) : (commitRemap px s).mem = s.mem.store .f8out px := rfl
@[simp] theorem commitRemap_moves (px : List Byte) (s : State) : (commitRemap px s).moves = s.moves := rfl
@[simp] theorem commitRemap_response (px : List Byte) (s : State) : (commitRemap px s).response = s.response := rfl
@[simp] theorem commitRemap_epoch (px : List Byte) (s : State) : (commitRemap px s).epoch = s.epoch := rfl
@[simp] theorem commitRemap_draws (px : List Byte) (s : State) : (commitRemap px s).draws = s.draws := rfl

end Sys2Proof.Machine
end

