-- ==== Sys2Proof/Laws/Ops.lean ====
section
/-! SUPPORT. What the shared operations can do, each said once: the checks, the running of stages, the stages themselves, the places of registers and buffers, a host access, and a step. -/

namespace Sys2Proof.Machine

/-! ### The status word -/

theorem statusCompleted_eq (st : Word) : statusCompleted st = completedStatus st := rfl

theorem statusFailed_eq (st : Word) (c : ErrCode) : statusFailed st c = failedStatus st c.number.toNat := by
  cases c <;> rfl

@[simp] theorem busy_complete (s : State) : s.complete.busy = false := by
  simp [State.busy, statusCompleted]

@[simp] theorem done_complete (s : State) : s.complete.done = true := by
  simp [State.done, statusCompleted]

@[simp] theorem busy_raise (s : State) (e : StageError) : (s.raise e).busy = false := by
  cases e with | mk c _ _ => cases c <;> simp [State.busy, statusFailed, ErrCode.number]

@[simp] theorem done_raise (s : State) (e : StageError) : (s.raise e).done = true := by
  cases e with | mk c _ _ => cases c <;> simp [State.done, statusFailed, ErrCode.number]

@[simp] theorem err_raise (s : State) (e : StageError) : (s.raise e).err = true := by
  cases e with | mk c _ _ => cases c <;> simp [State.err, statusFailed, ErrCode.number]

@[simp] theorem err_complete (s : State) : s.complete.err = s.err := by
  simp [State.err, statusCompleted]

@[simp] theorem busy_accept (s : State) (w : Word) : (s.accept w).busy = true := by
  simp [State.busy, statusAccepted]

/-! ### The checks -/

theorem dimsOk_iff (s : State) : s.dimsOk Config.params = true ↔ s.GeometryLegal := by
  rw [State.dimsOk, Bool.and_eq_true, Bool.and_eq_true, decide_eq_true_eq, decide_eq_true_eq, decide_eq_true_eq,
    State.GeometryLegal, Nat.one_le_iff_ne_zero, Nat.one_le_iff_ne_zero, and_assoc]
  rfl

/-- The three outcomes of the stream length check (R85). -/
theorem checkStream_eq (stage : Byte) (s : State) :
    checkStream stage s =
      if s.rawLen.toNat < 2 * s.pixels then .error ⟨.ioError, stage, 0⟩
      else if 2 * s.pixels < s.rawLen.toNat then .error ⟨.invalidDimensions, stage, 0⟩ else .ok () := rfl

/-! ### The stages: everything each can do -/

theorem stageLoadBe_eq (p : Params) (s : State) :
    stageLoadBe p s =
      if s.dimsOk p then
        if s.rawLen.toNat < 2 * s.pixels then .error ⟨.ioError, 0x01, 0⟩
        else if 2 * s.pixels < s.rawLen.toNat then .error ⟨.invalidDimensions, 0x01, 0⟩
        else .ok (commitF16 (samplesOf loadBeSample s.rawBytes) s)
      else .error ⟨.invalidDimensions, 0x01, 0⟩ := by
  simp only [stageLoadBe, checkDims, checkStream]
  split <;> [split <;> [rfl; (split <;> rfl)]; rfl]

theorem stageLoadNative_eq (p : Params) (s : State) :
    stageLoadNative p s =
      if s.dimsOk p then
        if s.rawLen.toNat < 2 * s.pixels then .error ⟨.ioError, 0x02, 0⟩
        else if 2 * s.pixels < s.rawLen.toNat then .error ⟨.invalidDimensions, 0x02, 0⟩
        else .ok (commitF16 (samplesOf (loadNativeSample p) s.rawBytes) s)
      else .error ⟨.invalidDimensions, 0x02, 0⟩ := by
  simp only [stageLoadNative, checkDims, checkStream]
  split <;> [split <;> [rfl; (split <;> rfl)]; rfl]

theorem stageCompress_eq (p : Params) (s : State) :
    stageCompress p s =
      if s.dimsOk p then
        if s.vF16 then
          if maxSample s.f16Samples = minSample s.f16Samples then
            if s.flatZero then
              .ok (commitCompress (s.f16Samples.map fun _ => 0) (minSample s.f16Samples) (maxSample s.f16Samples) true s)
            else .error ⟨.degenerateFrame, 0x03, 0⟩
          else
            .ok (commitCompress
              (s.f16Samples.map fun x => compressPixel (minSample s.f16Samples) (maxSample s.f16Samples) x.toNat)
              (minSample s.f16Samples) (maxSample s.f16Samples) false s)
        else .error ⟨.sequence, 0x03, 0⟩
      else .error ⟨.invalidDimensions, 0x03, 0⟩ := by
  simp only [stageCompress, checkDims, checkValid]
  split <;> [split <;> [(split <;> [split <;> rfl; rfl]); rfl]; rfl]

theorem stageHist_eq (p : Params) (s : State) :
    stageHist p s =
      if s.dimsOk p then
        if s.vF8in then
          .ok (commitHist
            (histBinsOf (histCounted s.thresholdValue (backDiffs s.frameW s.f8inPixels)))
            (histK (backDiffs s.frameW s.f8inPixels))
            (histCounted s.thresholdValue (backDiffs s.frameW s.f8inPixels)).length s)
        else .error ⟨.sequence, 0x04, 0⟩
      else .error ⟨.invalidDimensions, 0x04, 0⟩ := by
  simp only [stageHist, checkDims, checkValid]
  split <;> [split <;> rfl; rfl]

/-- The statistics TONE works on. -/
def State.toneOutcome (p : Params) (s : State) : Except StageError ToneResult :=
  toneSteps p s s.pixels s.k.toNat s.count.toNat (s.histBins.map fun w => w.toNat)

theorem stageTone_eq (p : Params) (s : State) :
    stageTone p s =
      if s.dimsOk p then
        if s.vStats then
          if gainOk s.gainValue then
            match s.toneOutcome p with
            | .ok r => .ok (commitTone r s)
            | .error e => .error e
          else .error ⟨.config, 0x05, 0⟩
        else .error ⟨.sequence, 0x05, 0⟩
      else .error ⟨.invalidDimensions, 0x05, 0⟩ := by
  rw [stageTone, ← State.toneOutcome]
  cases hd : s.dimsOk p <;> cases s.vStats <;> cases hg : gainOk s.gainValue <;>
    cases hr : s.toneOutcome p <;>
    simp [checkDims, checkValid, checkGain, hd, hg, bind, Except.bind, pure, Except.pure]

theorem stageRemap_eq (p : Params) (s : State) :
    stageRemap p s =
      if s.dimsOk p then
        if s.vF8in && s.vTone then .ok (commitRemap (s.f8inPixels.map (lutEntry s.lutTable)) s)
        else .error ⟨.sequence, 0x06, 0⟩
      else .error ⟨.invalidDimensions, 0x06, 0⟩ := by
  simp only [stageRemap, checkDims, checkValid]
  split <;> [split <;> rfl; rfl]

/-- Steps 2 to 7 of TONE: everything they can do. -/
theorem toneSteps_eq (p : Params) (s : State) (n k count : Nat) (hist : List Nat) :
    toneSteps p s n k count hist =
      match toneBlend s.kFallback k s.gainValue with
      | .error e => .error e
      | .ok b =>
        match toneWeight s.pdfFallback (pdfMin (tonePdf n (toneModhist p b.kprime (toneU count) hist)))
            (pdfMax (tonePdf n (toneModhist p b.kprime (toneU count) hist)))
            (tonePdf n (toneModhist p b.kprime (toneU count) hist)) with
        | .error e => .error e
        | .ok w =>
          if feq (toneSum (toneCumulative w.1)) 0 then .error ⟨.degenerateStatistics, 0x05, 6⟩
          else .ok ⟨b, toneU count, toneModhist p b.kprime (toneU count) hist,
            tonePdf n (toneModhist p b.kprime (toneU count) hist),
            pdfMin (tonePdf n (toneModhist p b.kprime (toneU count) hist)),
            pdfMax (tonePdf n (toneModhist p b.kprime (toneU count) hist)), w.1, w.2,
            toneSum (toneCumulative w.1), (toneCumulative w.1).map fun c => fdiv c (toneSum (toneCumulative w.1)),
            toneTable p s.table0Copy ((toneCumulative w.1).map fun c => fdiv c (toneSum (toneCumulative w.1))) w.1⟩ := by
  simp only [toneSteps]
  cases toneBlend s.kFallback k s.gainValue with
  | error e => rfl
  | ok b =>
    simp only [bind, Except.bind]
    cases toneWeight s.pdfFallback (pdfMin (tonePdf n (toneModhist p b.kprime (toneU count) hist)))
        (pdfMax (tonePdf n (toneModhist p b.kprime (toneU count) hist)))
        (tonePdf n (toneModhist p b.kprime (toneU count) hist)) with
    | error e => rfl
    | ok w => rfl

/-! ### Running stages -/

theorem runStages_nil (s : State) : runStages [] s = (s, none) := rfl

theorem runStages_cons_ok {stage : Stage} {rest : List Stage} {s t : State} (h : stage s = .ok t) :
    runStages (stage :: rest) s = runStages rest t := by rw [runStages, h]

theorem runStages_cons_error {stage : Stage} {rest : List Stage} {s : State} {e : StageError}
    (h : stage s = .error e) : runStages (stage :: rest) s = (s, some e) := by rw [runStages, h]

theorem runCommand_nil (s : State) : runCommand [] s = s.complete := rfl

theorem runCommand_single_ok {stage : Stage} {s t : State} (h : stage s = .ok t) :
    runCommand [stage] s = t.complete := by simp [runCommand, runStages, h]

theorem runCommand_cons_error {stage : Stage} {rest : List Stage} {s : State} {e : StageError}
    (h : stage s = .error e) : runCommand (stage :: rest) s = s.raise e := by
  rw [runCommand, runStages_cons_error h]

theorem runCommand_cons_ok {stage : Stage} {rest : List Stage} {s t : State} (h : stage s = .ok t) :
    runCommand (stage :: rest) s = runCommand rest t := by rw [runCommand, runCommand, runStages_cons_ok h]

/-- A command ends in a completion or in a raised error. -/
theorem runCommand_cases (stages : List Stage) (s : State) :
    (∃ t : State, runCommand stages s = t.complete) ∨ ∃ (t : State) (e : StageError), runCommand stages s = t.raise e := by
  rw [runCommand]
  split
  · exact .inl ⟨_, rfl⟩
  · exact .inr ⟨_, _, rfl⟩

/-- What every stage of a command keeps, the command keeps but for STATUS and ERRINFO: a property of states that each
stage keeps, completion keeps and raising keeps. -/
theorem runCommand_keeps (P : State → Prop) (stages : List Stage) (s : State) (h : P s)
    (hstage : ∀ stage ∈ stages, ∀ x y, P x → stage x = .ok y → P y)
    (hcomplete : ∀ x, P x → P x.complete) (hraise : ∀ x e, P x → P (x.raise e)) : P (runCommand stages s) := by
  induction stages generalizing s with
  | nil => exact hcomplete _ h
  | cons stage rest ih =>
    cases hs : stage s with
    | ok t =>
      rw [runCommand_cons_ok hs]
      exact ih t (hstage stage List.mem_cons_self s t h hs) fun st hst => hstage st (List.mem_cons_of_mem _ hst)
    | error e => rw [runCommand_cons_error hs]; exact hraise s e h

/-! ### Places of registers and buffers -/

@[simp] theorem regAt_offset (r : RegName) : regAt r.offset = some r := by cases r <;> decide

theorem regAt_some {a : Nat} {r : RegName} (h : regAt a = some r) : r.offset = a := by
  simpa using List.find?_some h

theorem bufferAt_some {p : Params} {a : Nat} {b : Buffer} (h : bufferAt p a = some b) :
    b.base ≤ a ∧ a < b.base + b.bytes p := by
  simpa using List.find?_some h

theorem bufferAt_none {p : Params} {a : Nat} (h : bufferAt p a = none) (b : Buffer) :
    a < b.base ∨ b.base + b.bytes p ≤ a := by
  have hb : b ∈ [Buffer.hist, .mhist, .pdf, .pdfw, .cdfw, .lut, .raw, .f16, .f8in, .f8out] := by cases b <;> simp
  have := List.find?_eq_none.mp h b hb
  simp at this
  omega

/-- The buffers do not overlap: an offset lies in a buffer exactly when `bufferAt` names it. -/
theorem bufferAt_iff (a : Nat) (b : Buffer) :
    bufferAt Config.params a = some b ↔ b.base ≤ a ∧ a < b.base + b.bytes Config.params := by
  refine ⟨bufferAt_some, fun h => ?_⟩
  cases hb : bufferAt Config.params a with
  | none => have := bufferAt_none hb b; omega
  | some c =>
    have hc := bufferAt_some hb
    cases b <;> cases c <;> first
      | rfl
      | (simp [Buffer.base, Buffer.bytes, Buffer.elemBytes, Buffer.capacity, Config.params] at h hc; omega)

/-! ### A host access and a step: everything they can do -/

/-- A host access is refused outside the decoded offsets, answered ERROR without effect where it is misaligned or too
narrow for the register block, and else performed (R50 to R54). -/
theorem hostAccess_cases {p : Params} {s t : State} {a : Access} (h : hostAccess p s a = .next t) :
    (∃ size off, a = .read size off ∧ accessOkay size off = true ∧ t = hostRead p s size off) ∨
    (∃ size off v, a = .write size off v ∧ accessOkay size off = true ∧ t = hostWrite p s size off v) ∨
    ∃ d, t = s.respondError d := by
  cases a with
  | read size off =>
    simp only [hostAccess] at h
    split at h
    · split at h
      · rename_i hok; exact .inl ⟨size, off, rfl, hok, by cases h; rfl⟩
      · exact .inr (.inr ⟨_, by cases h; rfl⟩)
    · cases h
  | write size off v =>
    simp only [hostAccess] at h
    split at h
    · split at h
      · rename_i hok; exact .inr (.inl ⟨size, off, v, rfl, hok, by cases h; rfl⟩)
      · exact .inr (.inr ⟨_, by cases h; rfl⟩)
    · cases h

/-- An engine turn runs the command in CMD, or completes an illegal word, or finds the block idle. -/
theorem engineTurn_cases {s t : State} (h : engineTurn s = .next t) :
    (s.busy = true ∧ ∃ i, decode (wordBytes s.cmd) = .ok i ∧ exec i s = .next t) ∨
    (s.busy = true ∧ (∃ e, decode (wordBytes s.cmd) = .error e) ∧ t = s.raiseIllegal) ∨ (s.busy = false ∧ t = s) := by
  rw [engineTurn] at h
  split at h
  · rename_i hb
    rw [engineStep] at h
    split at h
    · rename_i i hi; exact .inl ⟨hb, i, hi, h⟩
    · rename_i e he; exact .inr (.inl ⟨hb, ⟨e, he⟩, by cases h; rfl⟩)
  · rename_i hb; exact .inr (.inr ⟨by simpa using hb, by cases h; rfl⟩)

/-- A step is a turn of the engine, a host access or a reset. -/
theorem step_cases {s t : State} (h : step s = .next t) :
    (engineTurn { s with moves := s.moves.tail } = .next t ∧ (s.moves = [] ∨ s.moves.head? = some .engine)) ∨
    (∃ a, s.moves.head? = some (.access a) ∧
      hostAccess Config.params { s with moves := s.moves.tail } a = .next t) ∨
    (s.moves.head? = some .reset ∧ t = { s with moves := s.moves.tail }.resetInput) := by
  rw [step, advance] at h
  split at h
  · rename_i hm
    refine .inl ⟨?_, .inl hm⟩
    have : { s with moves := s.moves.tail } = s := by cases s; simp at hm; simp [hm]
    rwa [this]
  · rename_i m rest hm
    cases m with
    | access a => exact .inr (.inl ⟨a, by simp [hm], by simpa [hm, performMove] using h⟩)
    | engine => exact .inl ⟨by simpa [hm, performMove] using h, .inr (by simp [hm])⟩
    | reset => exact .inr (.inr ⟨by simp [hm], by simp only [performMove] at h; cases h; simp [hm]⟩)

end Sys2Proof.Machine
end

