-- ==== Sys2Proof/Laws/Elements.lean ====
section
/-! SUPPORT. Elements and their bytes: an element is the bytes it is stored as, a sequence of elements is stored and read element by element, and an element read after a commit is the element committed. -/

namespace Sys2Proof.Machine

/-! ### One element -/

theorem half_of_bytes (h : Half) : (h.extractLsb' 8 8 ++ h.extractLsb' 0 8 : Half) = h := by
  apply BitVec.eq_of_getLsbD_eq
  intro i hi
  simp only [BitVec.getLsbD_append, BitVec.getLsbD_extractLsb']
  by_cases h : i < 8
  · simp [h]
  · simp [h, show 8 + (i - 8) = i by omega, show i - 8 < 8 by omega]

theorem word_of_bytes (w : Word) :
    (w.extractLsb' 24 8 ++ w.extractLsb' 16 8 ++ w.extractLsb' 8 8 ++ w.extractLsb' 0 8 : Word) = w := by
  apply BitVec.eq_of_getLsbD_eq
  intro i hi
  simp only [BitVec.getLsbD_append, BitVec.getLsbD_extractLsb']
  by_cases h1 : i < 8
  · simp [h1]
  · by_cases h2 : i - 8 < 8
    · simp [h1, h2, show 8 + (i - 8) = i by omega]
    · by_cases h3 : i - 8 - 8 < 8
      · simp [h1, h2, h3, show 16 + (i - 8 - 8) = i by omega]
      · simp [h1, h2, h3, show 24 + (i - 8 - 8 - 8) = i by omega, show i - 8 - 8 - 8 < 8 by omega]

theorem dword_of_halves (d : DWord) : (d.extractLsb' 32 32 ++ d.extractLsb' 0 32 : DWord) = d := by
  apply BitVec.eq_of_getLsbD_eq
  intro i hi
  simp only [BitVec.getLsbD_append, BitVec.getLsbD_extractLsb']
  by_cases h : i < 32
  · simp [h]
  · simp [h, show 32 + (i - 32) = i by omega, show i - 32 < 32 by omega]

@[simp] theorem halfBytes_length (h : Half) : (halfBytes h).length = 2 := rfl
@[simp] theorem wordElemBytes_length (w : Word) : (wordElemBytes w).length = 4 := rfl
@[simp] theorem dwordBytes_length (d : DWord) : (dwordBytes d).length = 8 := rfl
@[simp] theorem wordBytes_length (w : Word) : (wordBytes w).length = 4 := rfl

theorem decode_wordBytes (w : Word) : decode (wordBytes w) = decodeWord w := by
  show decodeWord (wordOfBytes _ _ _ _) = _
  rw [wordOfBytes, word_of_bytes]

/-! ### Sequences of elements -/

theorem flatMap_length_const {α : Type} (f : α → List Byte) (k : Nat) (hf : ∀ x, (f x).length = k) (xs : List α) :
    (xs.flatMap f).length = k * xs.length := by
  induction xs with
  | nil => simp
  | cons x xs ih => simp [List.flatMap_cons, hf, ih, Nat.mul_add, Nat.add_comm]

theorem flatMap_getElem {α : Type} (f : α → List Byte) (k : Nat) (hf : ∀ x, (f x).length = k) (xs : List α)
    (i j : Nat) (hj : j < k) : (xs.flatMap f)[k * i + j]? = (xs[i]?).bind fun x => (f x)[j]? := by
  induction xs generalizing i with
  | nil => simp
  | cons x xs ih =>
    rw [List.flatMap_cons]
    cases i with
    | zero => rw [List.getElem?_append_left (by simp [hf, hj])]; simp
    | succ i =>
      rw [List.getElem?_append_right (by rw [hf, Nat.mul_add]; omega), hf,
        show k * (i + 1) + j - k = k * i + j by rw [Nat.mul_add]; omega, ih, List.getElem?_cons_succ]

theorem halvesOfBytes_length (n : Nat) (bs : List Byte) (h : bs.length = 2 * n) : (halvesOfBytes bs).length = n := by
  induction n generalizing bs with
  | zero => cases bs with
    | nil => rfl
    | cons b bs => simp at h
  | succ n ih =>
    match bs, h with
    | b0 :: b1 :: bs, h => simp [halvesOfBytes, ih bs (by simpa [Nat.mul_add] using h)]
    | [_], h => simp at h; omega
    | [], h => simp at h

theorem halvesOfBytes_getElem (bs : List Byte) (i : Nat) :
    (halvesOfBytes bs)[i]? = (bs[2 * i]?).bind fun b0 => (bs[2 * i + 1]?).bind fun b1 => some (b1 ++ b0) := by
  induction i generalizing bs with
  | zero =>
    match bs with
    | [] => rfl
    | [_] => rfl
    | b0 :: b1 :: bs => simp [halvesOfBytes]
  | succ i ih =>
    match bs with
    | [] => rfl
    | [_] => simp [halvesOfBytes, Nat.mul_add]
    | b0 :: b1 :: bs => simp [halvesOfBytes, ih bs, Nat.mul_add]

theorem samplesOf_length (f : Byte → Byte → Half) (n : Nat) (bs : List Byte) (h : bs.length = 2 * n) :
    (samplesOf f bs).length = n := by
  induction n generalizing bs with
  | zero => cases bs with
    | nil => rfl
    | cons b bs => simp at h
  | succ n ih =>
    match bs, h with
    | b0 :: b1 :: bs, h => simp [samplesOf, ih bs (by simpa [Nat.mul_add] using h)]
    | [_], h => simp at h; omega
    | [], h => simp at h

theorem samplesOf_getElem (f : Byte → Byte → Half) (bs : List Byte) (i : Nat) :
    (samplesOf f bs)[i]? = (bs[2 * i]?).bind fun b0 => (bs[2 * i + 1]?).bind fun b1 => some (f b0 b1) := by
  induction i generalizing bs with
  | zero =>
    match bs with
    | [] => rfl
    | [_] => rfl
    | b0 :: b1 :: bs => simp [samplesOf]
  | succ i ih =>
    match bs with
    | [] => rfl
    | [_] => simp [samplesOf, Nat.mul_add]
    | b0 :: b1 :: bs => simp [samplesOf, ih bs, Nat.mul_add]

theorem wordsOfBytes_getElem (bs : List Byte) (i : Nat) :
    (wordsOfBytes bs)[i]? = (bs[4 * i]?).bind fun b0 => (bs[4 * i + 1]?).bind fun b1 =>
      (bs[4 * i + 2]?).bind fun b2 => (bs[4 * i + 3]?).bind fun b3 => some (b3 ++ b2 ++ b1 ++ b0) := by
  induction i generalizing bs with
  | zero =>
    match bs with
    | [] => rfl
    | [_] => rfl
    | [_, _] => rfl
    | [_, _, _] => rfl
    | b0 :: b1 :: b2 :: b3 :: bs => simp [wordsOfBytes]
  | succ i ih =>
    match bs with
    | [] => rfl
    | [_] => simp [wordsOfBytes, Nat.mul_add]
    | [_, _] => simp [wordsOfBytes, Nat.mul_add]
    | [_, _, _] => simp [wordsOfBytes, Nat.mul_add]
    | b0 :: b1 :: b2 :: b3 :: bs => simp [wordsOfBytes, ih bs, Nat.mul_add]

/-! ### The operands of the stages -/

theorem read_getElem_option (m : Memory) (e a n j : Nat) (h : j < n) :
    (m.read e a n)[j]? = some (m.byteAt e (a + j)) := by
  rw [List.getElem?_eq_getElem (by simpa using h), read_getElem]

/-- F8IN[0 .. N-1] are the bytes of the F8IN window. -/
theorem f8inPixels_getElem (s : State) (i : Nat) (h : i < s.pixels) :
    s.f8inPixels[i]? = some (s.byteAt (0x03000000 + i)) := read_getElem_option _ _ _ _ _ h

/-- F16[0 .. N-1] are the little-endian pairs of the F16 window. -/
theorem f16Samples_getElem (s : State) (i : Nat) (h : i < s.pixels) :
    s.f16Samples[i]? = some (s.byteAt (0x02000000 + 2 * i + 1) ++ s.byteAt (0x02000000 + 2 * i)) := by
  rw [State.f16Samples, State.bufferBytes, halvesOfBytes_getElem, read_getElem_option _ _ _ _ _ (by omega),
    read_getElem_option _ _ _ _ _ (by omega)]
  rfl

/-- HIST[0..255] are the little-endian words of the HIST window. -/
theorem histBins_getElem (s : State) (i : Nat) (h : i < 256) : s.histBins[i]? = some (s.wordAt (0x00001000 + 4 * i)) := by
  rw [State.histBins, State.bufferBytes, wordsOfBytes_getElem, read_getElem_option _ _ _ _ _ (by omega),
    read_getElem_option _ _ _ _ _ (by omega), read_getElem_option _ _ _ _ _ (by omega),
    read_getElem_option _ _ _ _ _ (by omega)]
  rfl

/-- LUT[0..255] are the bytes of the LUT window. -/
theorem lutTable_getElem (s : State) (i : Nat) (h : i < 256) : s.lutTable[i]? = some (s.byteAt (0x00003000 + i)) :=
  read_getElem_option _ _ _ _ _ h

/-! ### An element after a commit -/

theorem byteAt_write_option (m : Memory) (e a j : Nat) (bs : List Byte) (b : Byte) (h : bs[j]? = some b) :
    (m.write a bs).byteAt e (a + j) = b := by
  obtain ⟨hj, rfl⟩ := List.getElem?_eq_some_iff.mp h
  exact byteAt_write_inside m e a j bs hj

/-- A 32-bit element of a buffer after the buffer is stored is the element stored. -/
theorem wordAt_stored (s : State) (m : Memory) (a i : Nat) (ws : List Word) (w : Word)
    (hm : s.mem = m.write a (ws.flatMap wordElemBytes)) (h : ws[i]? = some w) : s.wordAt (a + 4 * i) = w := by
  have key : ∀ j, (hj : j < 4) → s.byteAt (a + 4 * i + j) = (wordElemBytes w)[j]'hj := by
    intro j hj
    rw [State.byteAt, hm, Nat.add_assoc]
    refine byteAt_write_option _ _ _ _ _ _ ?_
    rw [flatMap_getElem wordElemBytes 4 wordElemBytes_length ws i j hj, h]
    exact List.getElem?_eq_getElem hj
  have k0 := key 0 (by omega)
  rw [Nat.add_zero] at k0
  rw [State.wordAt, key 3 (by omega), key 2 (by omega), key 1 (by omega), k0]
  exact word_of_bytes w

end Sys2Proof.Machine
end

