-- ==== Sys2Proof/Laws/F64.lean ====
section
/-! SUPPORT. The small lemmas of the binary64 arithmetic: the binary logarithm, the integer square root, and rounding to even. -/

namespace Sys2Proof.Machine

theorem log2_shiftRight (n k : Nat) (h : n >>> k ≠ 0) : Nat.log2 n = k + Nat.log2 (n >>> k) := by
  have hn : n ≠ 0 := by rintro rfl; simp at h
  rw [Nat.shiftRight_eq_div_pow] at h ⊢
  have hk : 2 ^ k ≤ n := by
    by_contra hlt
    exact h (Nat.div_eq_of_lt (by omega))
  have h1 : 2 ^ Nat.log2 (n / 2 ^ k) ≤ n / 2 ^ k := Nat.log2_self_le h
  have h2 : n / 2 ^ k < 2 ^ (Nat.log2 (n / 2 ^ k) + 1) := Nat.lt_log2_self
  have hpos : 0 < 2 ^ k := Nat.two_pow_pos k
  apply (Nat.log2_eq_iff hn).mpr
  constructor
  · calc 2 ^ (k + Nat.log2 (n / 2 ^ k)) = 2 ^ Nat.log2 (n / 2 ^ k) * 2 ^ k := by rw [Nat.pow_add, Nat.mul_comm]
      _ ≤ n / 2 ^ k * 2 ^ k := Nat.mul_le_mul_right _ h1
      _ ≤ n := Nat.div_mul_le_self n _
  · have := (Nat.div_lt_iff_lt_mul hpos).mp h2
    calc n < 2 ^ (Nat.log2 (n / 2 ^ k) + 1) * 2 ^ k := this
      _ = 2 ^ (k + Nat.log2 (n / 2 ^ k) + 1) := by rw [← Nat.pow_add]; congr 1; omega

theorem log2From_eq (ks : List Nat) (n : Nat) : log2From ks n = Nat.log2 n := by
  induction ks generalizing n with
  | nil => rfl
  | cons k ks ih =>
    rw [log2From]
    split
    · exact ih n
    · rename_i h; rw [ih, ← log2_shiftRight n k h]

/-- `binLog` is the floor of the binary logarithm. -/
@[simp] theorem binLog_eq_log2 (n : Nat) : binLog n = Nat.log2 n := log2From_eq _ n

theorem isqrtFrom_spec (n bits r : Nat) (h1 : r * r ≤ n) (h2 : n < (r + 2 ^ bits) * (r + 2 ^ bits)) :
    isqrtFrom n bits r * isqrtFrom n bits r ≤ n ∧ n < (isqrtFrom n bits r + 1) * (isqrtFrom n bits r + 1) := by
  induction bits generalizing r with
  | zero => simpa [isqrtFrom] using ⟨h1, h2⟩
  | succ bits ih =>
    rw [isqrtFrom]
    simp only [Nat.shiftLeft_eq, Nat.one_mul]
    split
    · rename_i h
      exact ih _ h (by rw [Nat.pow_succ] at h2; rwa [Nat.add_assoc, ← Nat.mul_two])
    · rename_i h
      exact ih _ h1 (by omega)

/-- `isqrt` is the floor of the square root, below 4^54. -/
theorem isqrt_spec (n : Nat) (h : n < 2 ^ 54 * 2 ^ 54) : isqrt n * isqrt n ≤ n ∧ n < (isqrt n + 1) * (isqrt n + 1) :=
  isqrtFrom_spec n 54 0 (by simp) (by simpa using h)

theorem f64One_pos : 0 < f64One := by decide +kernel

/-- A rounded quotient is the floor or one more, and at distance at most half. -/
theorem tiesToEven_spec (n d : Nat) (hd : 0 < d) :
    2 * n ≤ (2 * tiesToEven (n / d) (n % d) d + 1) * d ∧ 2 * tiesToEven (n / d) (n % d) d * d ≤ 2 * n + d := by
  have hn : d * (n / d) + n % d = n := Nat.div_add_mod n d
  have hr : n % d < d := Nat.mod_lt n hd
  generalize n / d = q at hn ⊢
  generalize n % d = r at hn hr ⊢
  rw [tiesToEven]
  split
  · constructor <;> nlinarith
  · split
    · constructor <;> nlinarith
    · have h2 : 2 * r = d := by omega
      have : q % 2 = 0 ∨ q % 2 = 1 := by omega
      rcases this with h | h <;> rw [h] <;> constructor <;> nlinarith

/-! ### Encodings made of a sign and a magnitude -/

@[simp] theorem f64Mag_make (neg : Bool) (mag : Nat) (h : mag ≤ f64Inf) : f64Mag (f64Make neg mag) = mag := by
  unfold f64Inf at h; unfold f64Mag f64Make
  rw [BitVec.toNat_ofNat]; cases neg <;> simp <;> omega

@[simp] theorem f64Sign_make (neg : Bool) (mag : Nat) (h : mag ≤ f64Inf) : f64Sign (f64Make neg mag) = neg := by
  unfold f64Inf at h; unfold f64Sign f64Make
  have h1 (b : Bool) : (((if b then 0x8000000000000000 else 0) + mag) % 2 ^ 64) / 0x8000000000000000 = b.toNat := by
    cases b <;> simp <;> omega
  have h2 := h1 neg
  rw [← BitVec.msb_eq_getLsbD_last (x := BitVec.ofNat 64 ((if neg then 0x8000000000000000 else 0) + mag)),
    BitVec.msb_eq_decide, BitVec.toNat_ofNat]
  cases neg <;> simp_all <;> omega

theorem roundMag_le (num den : Nat) : roundMag num den ≤ f64Inf := Nat.min_le_right _ _

/-- A rounded result has the magnitude of the rounding and the sign it was given. -/
theorem f64Round_spec (neg : Bool) (num den : Nat) :
    f64Mag (f64Round neg num den) = roundMag num den ∧ f64Sign (f64Round neg num den) = neg :=
  ⟨f64Mag_make _ _ (roundMag_le num den), f64Sign_make _ _ (roundMag_le num den)⟩

end Sys2Proof.Machine
end

