-- ==== Sys2Proof/Laws/PerInstr.lean ====
section
/-! SUPPORT. Families of statements about every command, one lemma for each constructor of Instr. -/

namespace Sys2Proof.Laws

/-- Every command is well formed, its word has RESV 0 and its OPCODE in bits [7:0], and the table row made of that word
names it (R72 to R74). -/
def CommandWord.Statement (i : Instr) : Prop :=
  i.wellFormed = true ∧ resvField (encode i) = 0 ∧ opcodeField (encode i) = i.opcode ∧
    decodeTableWord 32 (encode i).toNat = some i

theorem CommandWord.nop : CommandWord.Statement .nop := by unfold CommandWord.Statement; decide
theorem CommandWord.loadBe : CommandWord.Statement .loadBe := by unfold CommandWord.Statement; decide
theorem CommandWord.loadNative : CommandWord.Statement .loadNative := by unfold CommandWord.Statement; decide
theorem CommandWord.compress : CommandWord.Statement .compress := by unfold CommandWord.Statement; decide
theorem CommandWord.hist : CommandWord.Statement .hist := by unfold CommandWord.Statement; decide
theorem CommandWord.tone : CommandWord.Statement .tone := by unfold CommandWord.Statement; decide
theorem CommandWord.remap : CommandWord.Statement .remap := by unfold CommandWord.Statement; decide
theorem CommandWord.enhance : CommandWord.Statement .enhance := by unfold CommandWord.Statement; decide
theorem CommandWord.pipeline : CommandWord.Statement .pipeline := by unfold CommandWord.Statement; decide
theorem CommandWord.invalidate : CommandWord.Statement .invalidate := by unfold CommandWord.Statement; decide

end Sys2Proof.Laws
end

