-- ==== Sys2Proof/Tests/Slice0.lean ====
section
/-! SUPPORT. The model's own tests: the well-formedness smoke, the decoder on words written out from the encoding, one step of each command on small states with the results of 95_test_vectors.md, the bus, the arithmetic, and for every statement with hypotheses a state and operands that meet them. -/

namespace Sys2Proof.Tests

open Sys2Proof Sys2Proof.Machine

/-! ### Helpers -/

/-- What a view of the next state of an outcome is. -/
def seen {α : Type} (f : State → α) : Host.Outcome State Fault Refusal → Option α
  | .next t => some (f t)
  | _ => none

/-- STATUS and ERRINFO. -/
def report (s : State) : Word × Word := (s.status, s.errinfo)

/-- Bytes at an offset of the block. -/
def bytesOf (a n : Nat) (s : State) : List Nat := (s.mem.read s.epoch a n).map fun b => b.toNat

/-- After reset, with moves to come. -/
def idleWith (moves : List Move) : State := { State.reset with moves := moves }

/-- With a command pending and moves to come. -/
def busyWith (moves : List Move) : State := { State.reset with status := 0x00000001, moves := moves }

/-- A frame geometry, a length of the raw stream, valid bits, and stored bytes. -/
def frame (w h len valid : Word) (mem : Memory) : State :=
  { State.reset with width := w, height := h, rawLen := len, valid := valid, mem := mem }

/-- The 1024 bytes of HIST with the counts of some bins, every other bin 0. -/
def histBytes (bins : List (Nat × Word)) : List Byte :=
  (List.range 256).flatMap fun v => wordElemBytes ((bins.lookup v).getD 0)

/-! ### Well-formedness: an ill-formed term for each check -/

theorem test_wellFormed_refuses_misaligned : (Access.read .word 0x03000001).wellFormed = false := by decide
theorem test_wellFormed_refuses_narrow_register : (Access.write .half 0x020 7).wellFormed = false := by decide
theorem test_wellFormed_refuses_outside : (Access.read .byte 0x05000000).wellFormed = false := by decide
theorem test_wellFormed_accepts_aligned : (Access.write .half 0x03000002 0xBBAA).wellFormed = true := by decide
theorem test_params_refuse_no_pixels : ({ maxPixels := 0, resetW := 0 } : Params).wellFormed = false := by decide
theorem test_params_refuse_too_many_pixels : ({ maxPixels := 8388609 } : Params).wellFormed = false := by decide
theorem test_params_refuse_large_reset_frame : ({ maxPixels := 327679 } : Params).wellFormed = false := by decide
theorem test_params_wellFormed : Config.params.wellFormed = true := by decide

/-- No constructor of Instr is ill-formed, so the ill-formed term of this check is a word: 0x0000000A (R74, V60). -/
theorem test_opcode_above_map_is_refused : instrOfOpcode 0x0A = none := by decide

/-! ### Decoding: words written out bit by bit from R72 and R73, RESV in [31:8], OPCODE in [7:0] -/

theorem test_decode_nop : decode (wordBytes 0b00000000000000000000000000000000#32) = .ok .nop := by decide
theorem test_decode_load_be : decode (wordBytes 0b00000000000000000000000000000001#32) = .ok .loadBe := by decide
theorem test_decode_load_native : decode (wordBytes 0b00000000000000000000000000000010#32) = .ok .loadNative := by decide
theorem test_decode_compress : decode (wordBytes 0b00000000000000000000000000000011#32) = .ok .compress := by decide
theorem test_decode_hist : decode (wordBytes 0b00000000000000000000000000000100#32) = .ok .hist := by decide
theorem test_decode_tone : decode (wordBytes 0b00000000000000000000000000000101#32) = .ok .tone := by decide
theorem test_decode_remap : decode (wordBytes 0b00000000000000000000000000000110#32) = .ok .remap := by decide
theorem test_decode_enhance : decode (wordBytes 0b00000000000000000000000000000111#32) = .ok .enhance := by decide
theorem test_decode_pipeline : decode (wordBytes 0b00000000000000000000000000001000#32) = .ok .pipeline := by decide
theorem test_decode_invalidate : decode (wordBytes 0b00000000000000000000000000001001#32) = .ok .invalidate := by decide

/-- The bytes of a word are little-endian (R51). -/
theorem test_decode_byte_order : decode [0x04, 0x00, 0x00, 0x00] = .ok .hist := by decide
theorem test_decode_unknown_opcode : decode [0x0A, 0x00, 0x00, 0x00] = .error .unknownOpcode := by decide
theorem test_decode_reserved : decode [0x05, 0x01, 0x00, 0x00] = .error .reservedNonzero := by decide
theorem test_decode_length : decode [0x05, 0x00, 0x00] = .error .wrongLength := by decide
theorem test_decode_table_word : decodeTableWord 32 9 = some .invalidate ∧ decodeTableWord 32 0x105 = none := by decide

/-! ### V60: the first command after reset -/

theorem test_first_command_after_reset :
    (List.range 11).map (fun w => seen report (step (State.reset.withFetchWord 32 w))) =
      [some (0x00000002, 0), some (0x00000106, 1), some (0x00000106, 2), some (0x00000606, 3), some (0x00000606, 4),
       some (0x00000606, 5), some (0x00000606, 6), some (0x00000606, 4), some (0x00000106, 1), some (0x00000002, 0),
       some (0x00000506, 0x0A)] := by decide

theorem test_illegal_words :
    [0x000000FF, 0x00000105, 0x80000000].map (fun w => seen report (step (State.reset.withFetchWord 32 w))) =
      [some (0x00000506, 0xFF), some (0x00000506, 0x05), some (0x00000506, 0x00)] := by decide

/-! ### The loaders: V1, V2, V3, V4, V5, V6 -/

/-- V3. -/
theorem test_load_be_samples :
    [(0x00, 0x00), (0x1F, 0xFF), (0x20, 0x00), (0x7F, 0xFF), (0x80, 0x00), (0xDF, 0xFF), (0xE0, 0x00), (0xE0, 0x01),
      (0x1F, 0xFE), (0xFF, 0xFF), (0x00, 0x01)].map (fun b => (loadBeSample b.1 b.2).toNat) =
      [8192, 16383, 16383, 16383, 0, 0, 0, 1, 16382, 8191, 8193] := by decide

/-- V71: LOAD_BE of `E0 00 F0 00` as a frame of two pixels. -/
theorem test_load_be_step :
    seen (fun t => (report t, t.valid, bytesOf 0x02000000 4 t))
      (exec .loadBe (frame 2 1 4 0 (cellsFrom 0x01000000 [0xE0, 0x00, 0xF0, 0x00]))) =
      some ((0x00000002, 0), 1, [0x00, 0x00, 0x00, 0x10]) := by decide

/-- V4, with and without NATIVE_CLAMP. -/
theorem test_load_native_samples :
    [(0x1F, 0xFF), (0xE0, 0x01), (0xFF, 0x3F), (0x00, 0x40), (0xFF, 0xFF), (0x00, 0x00)].map (fun b =>
      ((loadNativeSample {} b.1 b.2).toNat, (loadNativeSample { nativeClamp := false } b.1 b.2).toNat)) =
      [(16383, 65311), (480, 480), (16383, 16383), (16383, 16384), (16383, 65535), (0, 0)] := by decide

/-- V2: the bytes `34 12` give 0x1234. -/
theorem test_load_native_step :
    seen (fun t => (report t, t.valid, bytesOf 0x02000000 2 t))
      (exec .loadNative (frame 1 1 2 0 (cellsFrom 0x01000000 [0x34, 0x12]))) =
      some ((0x00000002, 0), 1, [0x34, 0x12]) := by decide

/-- V5, V6: the stream length and the geometry. -/
theorem test_loader_checks :
    [(640, 512, 655359), (640, 512, 655361), (640, 513, 0), (0, 512, 0), (0x10000, 0x10000, 0)].map (fun e =>
      seen report (exec .loadNative (frame e.1 e.2.1 e.2.2 0 []))) =
      [some (0x00000106, 2), some (0x00000406, 2), some (0x00000406, 2), some (0x00000406, 2),
       some (0x00000406, 2)] := by decide

/-! ### COMPRESS: V10, V12 -/

/-- F16 = [0, 16383, 8192, 1]. -/
def v10 : State :=
  frame 4 1 0 1 (cellsFrom 0x02000000 [0x00, 0x00, 0xFF, 0x3F, 0x00, 0x20, 0x01, 0x00])

theorem test_compress_v10 :
    seen (fun t => (report t, bytesOf 0x03000000 4 t, t.minv, t.maxv, t.fallback, t.valid)) (exec .compress v10) =
      some ((0x00000002, 0), [0, 255, 127, 0], 0, 0x3FFF, 0, 3) := by decide +kernel

/-- F16 = [7, 7], under both policies. -/
def v12 (ctrl : Word) : State :=
  { frame 2 1 0 1 (cellsFrom 0x02000000 [0x07, 0x00, 0x07, 0x00]) with ctrl := ctrl }

theorem test_compress_v12 :
    seen report (exec .compress (v12 0)) = some (0x00000206, 3) ∧
    seen (fun t => (bytesOf 0x03000000 2 t, t.minv, t.maxv, t.fallback, t.valid)) (exec .compress (v12 2)) =
      some ([0, 0], 7, 7, 1, 3) := by decide +kernel

/-! ### HIST: V20, and the pixel 0 in column 2 of V21 -/

/-- The ramp 4×1 [10, 20, 30, 40]. -/
def v20 : State := frame 4 1 0 2 (cellsFrom 0x03000000 [10, 20, 30, 40])

theorem test_hist_v20 :
    seen (fun t => (report t, t.k, t.count, t.valid, [9, 10, 20, 30, 40, 41].map t.histAt)) (exec .hist v20) =
      some ((0x00000002, 0), 70, 4, 6, [0, 1, 1, 1, 1, 0]) := by decide +kernel

theorem test_hist_back_difference_of_zero :
    seen (fun t => (t.k, t.count, [0, 51, 153, 255].map t.histAt))
      (exec .hist (frame 4 1 0 2 (cellsFrom 0x03000000 [51, 153, 0, 255]))) =
      some (357, 4, [1, 1, 1, 1]) := by decide +kernel

/-! ### TONE: V32, V33, V34, V36, V37, V40 -/

/-- The statistics of the ramp. -/
def rampStats : State :=
  { frame 4 1 0 4 (cellsFrom 0x00001000 (histBytes [(10, 1), (20, 1), (30, 1), (40, 1)])) with k := 70, count := 4 }

/-- V32: KG, KEXP, KPRIME, U, PDFMAX, CDFSUM and the table of the ramp. -/
theorem test_tone_v32 :
    seen (fun t => ([t.kg, t.kprime, t.u, t.pdfmin, t.pdfmax, t.cdfsum], t.kexp, [t.fallback, t.valid],
        [9, 10, 19, 20, 29, 30, 39, 40, 41, 255].map t.lutAt)) (exec .tone rampStats) =
      some ([0x4085E00000000000, 0x3FE5E00000000000, 0x3F90000000000000, 0, 0x3FD0000000000000, 0x3FF0000000000000],
        10, [0, 12], [0, 32, 64, 96, 128, 159, 191, 223, 255, 255]) := by
  decide +kernel

/-- V40 and V33: gain 1e308, 0.0, -1.0, infinity and a NaN, all-zero statistics, and the checks before them. -/
theorem test_tone_errors :
    [(0x7FE1CCF385EBC8A0, 4), (0x0000000000000000, 4), (0xBFF0000000000000, 4), (0x7FF0000000000000, 4),
      (0x7FF8000000000000, 4), (0x7FF8000000000000, 0)].map (fun e =>
        seen report (exec .tone { rampStats with gain := e.1, valid := e.2 })) =
      [some (0x00000306, 0x205), some (0x00000706, 5), some (0x00000706, 5), some (0x00000706, 5),
       some (0x00000706, 5), some (0x00000606, 5)] ∧
    seen report (exec .tone { rampStats with k := 0 }) = some (0x00000306, 0x205) ∧
    seen report (exec .tone { rampStats with width := 0 }) = some (0x00000406, 5) := by decide +kernel

/-- V37: the tie of Step 3 under both roundings. -/
theorem test_modhist_rounds :
    toneModhist {} 0x3FE8000000000000 (toneU 512) [512, 0] = [385, 1] ∧
    toneModhist { modhistRound := .halfEven } 0x3FE8000000000000 (toneU 512) [512, 0] = [384, 0] := by decide +kernel

/-- V31: x = 31.875 and the tie x = 127.5 under the three conversions. -/
theorem test_table_conversions :
    [TableCvt.nearestEven, .nearestAway, .truncate].map (fun c =>
      (tableCvt { tableCvt := c } 0x403FE00000000000, tableCvt { tableCvt := c } 0x405FE00000000000)) =
      [(32, 128), (32, 128), (31, 127)] := by decide +kernel

/-- V34: i = 50 gives 112 and i = 200 gives 239; V36: entry 0 under both policies. -/
theorem test_table_entries :
    (tableEntry {} 0x3FE0000000000000 0x3FC0000000000000, tableEntry {} 0x3FF0000000000000 0x3FC0000000000000) =
      (112, 239) ∧
    toneTable {} false [0x3FD0000000000000, 0x3FD0000000000000] [0x3FD0000000000000, 0] = [0, 64] ∧
    toneTable {} true [0x3FD0000000000000, 0x3FD0000000000000] [0x3FD0000000000000, 0] = [64, 64] := by decide +kernel

/-! ### REMAP: V45, V46 -/

/-- A table with the ramp's entries at 10, 20, 30 and 40, and 0 elsewhere. -/
def rampLut : List Byte :=
  (List.range 256).map fun v => (([(10, 32), (20, 96), (30, 159), (40, 223)] : List (Nat × Byte)).lookup v).getD 0

/-- That table and the frame 4×1 [10, 20, 0, 40]. -/
def rampTable : State :=
  frame 4 1 0 0x0A (cellsFrom 0x00003000 rampLut ++ cellsFrom 0x03000000 [10, 20, 0, 40])

theorem test_remap_v45 :
    seen (fun t => (report t, bytesOf 0x04000000 4 t, t.valid)) (exec .remap rampTable) =
      some ((0x00000002, 0), [32, 96, 0, 223], 0x1A) := by decide +kernel

/-! ### NOP, INVALIDATE, ENHANCE, PIPELINE: V50, V51, V52, V53, V54 -/

/-- V50: `irq` rises at completion and falls when the host clears DONE. -/
theorem test_nop_raises_irq :
    let s := { State.reset.withFetchWord 32 0 with ctrl := 1, moves := [.engine, .access (.write .word 0x004 0x2)] }
    (s.irq, seen State.irq (Host.Core.run Sys2Proof.core 1 s), seen State.irq (Host.Core.run Sys2Proof.core 2 s)) =
      (false, some true, some false) := by decide

/-- V51. -/
theorem test_invalidate :
    seen (fun t => (report t, t.valid, bytesOf 0x03000000 4 t)) (exec .invalidate v20) =
      some ((0x00000002, 0), 0, [10, 20, 30, 40]) := by decide

/-- V53: ENHANCE of an all-zero frame keeps the commits of HIST and leaves the older output. -/
theorem test_enhance_fails_at_tone :
    seen (fun t => (report t, t.k, t.count, t.valid, bytesOf 0x04000000 2 t))
      (exec .enhance (frame 2 1 0 0x1E (cellsFrom 0x03000000 [0, 0] ++ cellsFrom 0x04000000 [32, 96]))) =
      some ((0x00000306, 0x205), 0, 0, 0x1E, [32, 96]) := by decide +kernel

/-- V39: the frame 1×1 [255] through ENHANCE. -/
theorem test_enhance_v39 :
    seen (fun t => (report t, t.kg, t.kexp, t.kprime, bytesOf 0x04000000 1 t))
      (exec .enhance (frame 1 1 0 2 (cellsFrom 0x03000000 [255]))) =
      some ((0x00000002, 0), 0x40A3EC0000000000, 12, 0x3FE3EC0000000000, [128]) := by decide +kernel

/-- V54: PIPELINE on a flat stream, under CTRL = 0 and under FLAT_ZERO. -/
def v54 (ctrl : Word) : State :=
  { frame 2 1 4 0 (cellsFrom 0x01000000 [0, 0, 0, 0]) with ctrl := ctrl }

theorem test_pipeline_v54 :
    [0, 2].map (fun c => seen (fun t => (report t, t.valid, t.fallback, t.minv, t.maxv)) (exec .pipeline (v54 c))) =
      [some ((0x00000206, 3), 1, 0, 0, 0), some ((0x00000306, 0x205), 7, 1, 0x2000, 0x2000)] := by decide +kernel

/-! ### The bus: V70 to V75, V80 -/

/-- V70: what is answered with ERROR, and a half-word write that is not. -/
theorem test_bus_errors :
    [Move.access (.read .word 0x03000001), .access (.write .half 0x03000001 7), .access (.read .byte 0x004),
      .access (.write .half 0x020 7)].map (fun m => seen (fun t => (t.response, t.status, t.threshold)) (step (idleWith [m]))) =
      [some (some ⟨false, some 0⟩, 0, 5), some (some ⟨false, none⟩, 0, 5), some (some ⟨false, some 0⟩, 0, 5),
       some (some ⟨false, none⟩, 0, 5)] ∧
    seen (fun t => (t.response, bytesOf 0x03000002 2 t)) (step (idleWith [.access (.write .half 0x03000002 0xBBAA)])) =
      some (some ⟨true, none⟩, [0xAA, 0xBB]) := by decide

/-- V71: the byte lanes of the stream `E0 00 F0 00`. -/
theorem test_bus_lanes :
    let s := frame 2 1 4 0 (cellsFrom 0x01000000 [0xE0, 0x00, 0xF0, 0x00])
    [Access.read .byte 0x01000000, .read .byte 0x01000001, .read .half 0x01000000, .read .word 0x01000000].map
        (fun a => seen (fun t => t.response) (step { s with moves := [.access a] })) =
      [some (some ⟨true, some 0xE0⟩), some (some ⟨true, some 0x00⟩), some (some ⟨true, some 0x000000E0⟩),
       some (some ⟨true, some 0x00F000E0⟩)] := by decide

/-- V72: STATUS is cleared by ones, and ERRCODE stays. -/
theorem test_status_w1c :
    [0x00000002, 0x0000000C, 0xFFFFFFFF].map (fun v => seen (fun t => t.status)
        (step { idleWith [.access (.write .word 0x004 v)] with status := 0x0000030E })) =
      [some 0x0000030C, some 0x00000302, some 0x00000300] := by decide

/-- V73: the two orders of a write that follows a CMD write. -/
theorem test_write_races_the_engine :
    let write := Move.access (.write .word 0x020 9)
    let run (moves : List Move) := seen (fun t => (t.threshold, t.hostViol))
      (Host.Core.run Sys2Proof.core 3 (idleWith (.access (.write .word 0x008 0) :: moves)))
    run [.engine, write] = some (9, false) ∧ run [write, .engine] = some (5, true) := by decide

/-- V74 and V75: a geometry write clears VALID; VALID and CTRL store what exists; reserved space reads 0. -/
theorem test_register_writes :
    seen (fun t => (t.width, t.valid)) (step { idleWith [.access (.write .word 0x010 4)] with valid := 0x1E }) =
      some (4, 0) ∧
    seen (fun t => t.valid) (step { idleWith [.access (.write .word 0x01C 0xFFFFFFFF)] with valid := 0x14 }) = some 0x16 ∧
    seen (fun t => t.ctrl) (step (idleWith [.access (.write .word 0x000 0xFFFFFFFF)])) = some 0x1F ∧
    [0x078, 0x3100, 0x03000000 + 327680].map (fun a =>
        seen (fun t => t.response) (step (idleWith [.access (.read .word a)]))) =
      [some (some ⟨true, some 0⟩), some (some ⟨true, some 0⟩), some (some ⟨true, some 0⟩)] := by decide

/-- V80: every register reads its reset value, in the order of R18. -/
theorem test_reset_registers :
    allRegs.map (fun r => (State.reset.reg r).toNat) =
      [0, 0, 0, 0, 640, 512, 0, 0, 5, 0, 0, 0x40240000] ++ List.replicate 18 0 := by decide

/-- V80: reset during a command. -/
theorem test_reset_while_busy :
    seen (fun t => (t.status, t.cmd, t.mem, t.epoch))
      (step { State.reset.withFetchWord 32 7 with moves := [.reset], mem := cellsFrom 0x03000000 [1] }) =
      some (0, 0, [], 1) := by decide

/-- P2: the 4-byte read of LUT[8..11], and R54, R56: an idle write into HIST is ignored. -/
theorem test_array_windows :
    let s := { rampTable with moves := [.access (.read .word 0x3008)] }
    seen (fun t => t.response) (step { s with mem := cellsFrom 0x3008 [0, 0, 32, 64] }) =
      some (some ⟨true, some 0x40200000⟩) ∧
    seen (fun t => (t.response, t.mem)) (step (idleWith [.access (.write .word 0x1000 7)])) =
      some (some ⟨true, none⟩, []) := by decide

/-! ### The arithmetic on the encodings the vectors give -/

/-- V30, V32, V38 (quotients), V32 (kg), V33 (a subnormal product and an overflow). -/
theorem test_products_and_quotients :
    fmul (f64OfNat 70) 0x4024000000000000 = 0x4085E00000000000 ∧
    fdiv (f64OfNat 314) (f64OfNat 327680) = 0x3F4F666666666666 ∧
    fdiv (f64OfNat 2) (f64OfNat 327680) = 0x3ED999999999999A ∧
    fdiv (f64OfNat 4) (f64OfNat 3060) = 0x3F556AC0156AC015 ∧
    fmul (f64OfNat 100) 0x0000000000000001 = 0x0000000000000064 ∧
    fmul (f64OfNat 70) 0x7FE1CCF385EBC8A0 = 0x7FF0000000000000 := by decide +kernel

/-- V33, R114: the exponent and k' of kg = 700, 4000, 35 and the subnormal 100·2^-1074. -/
theorem test_exponents :
    [0x4085E00000000000, 0x40AF400000000000, 0x4041800000000000, 0x0000000000000064].map (fun kg : F64 =>
      (leastExponent kg, ldexp kg (-(leastExponent kg)))) =
      [(10, 0x3FE5E00000000000), (12, 0x3FEF400000000000), (6, 0x3FE1800000000000),
       (-1067, 0x3FE9000000000000)] := by decide +kernel

/-- The square roots of 4 (exact), of 1/4 (exact) and of 2 (0x3FF6A09E667F3BCD, the correctly rounded binary64 value by
hand: 0x16A09E667F3BCC.908... · 2^-52). -/
theorem test_square_roots :
    fsqrt 0x4010000000000000 = 0x4000000000000000 ∧ fsqrt 0x3FD0000000000000 = 0x3FE0000000000000 ∧
    fsqrt 0x4000000000000000 = 0x3FF6A09E667F3BCD := by decide +kernel

/-- Sums: 1 - 0.68359375 = 0.31640625 (V32); a zero sum is +0; the signs of zeros compare equal (R10). -/
theorem test_sums :
    fsub 0x3FF0000000000000 0x3FE5E00000000000 = 0x3FD4400000000000 ∧ fsub 0x3FF0000000000000 0x3FF0000000000000 = 0 ∧
    feq 0x0000000000000000 0x8000000000000000 = true ∧ flt 0x8000000000000000 0x0000000000000000 = false := by
  decide +kernel

/-! ### Witnesses: for every statement with hypotheses, a state and operands that meet them, clause by clause and at the
boundary values -/

/-- ResetInputRestoresEveryRegister, UnwrittenBytesReadAsFreeValues: reset while a command runs, and an unwritten byte read at both ends of the F8OUT window. -/
theorem test_witness_reset :
    (busyWith [.reset]).moves = .reset :: [] ∧ (busyWith [.reset]).busy = true ∧
    (∀ j ∈ [0, 327679], (busyWith [.reset, .access (.read .byte (0x04000000 + j))]).moves =
      .reset :: .access (.read .byte (0x04000000 + j)) :: [] ∧ j < 327680) ∧
    (∃ t, step (busyWith [.reset]) = .next t) ∧
    ∃ t, step State.reset = .next t ∧ State.reset.moves.head? ≠ some .reset ∧
      ∀ a ∈ [0x1000, 0x04000000 + 327679], State.reset.mem.written a = none ∧ t.mem.written a = none :=
  ⟨by decide, by decide, by decide, ⟨_, rfl⟩, _, rfl, by decide, by decide⟩

/-- A pending command with the engine's turn given, and with no move left. -/
theorem test_witness_StepRunsTheDecodedCommand :
    let s := State.reset.withFetchWord 32 4
    s.busy = true ∧ s.moves.head? = some .engine ∧ decode (wordBytes s.cmd) = .ok .hist ∧
    (busyWith []).busy = true ∧ (busyWith []).moves = [] ∧ decode (wordBytes (busyWith []).cmd) = .ok .nop := by decide

theorem test_witness_DecoderAcceptsExactlyTheLegalWords :
    decode (wordBytes 0x00000009) = .ok .invalidate ∧ Instr.invalidate.wellFormed = true ∧
    decode (wordBytes 0x00000000) = .ok .nop ∧ Instr.nop.wellFormed = true := by decide

/-- Both ways to be illegal, at the first illegal opcode and the least nonzero RESV. -/
theorem test_witness_IllegalWordCompletesWithIllegalCommand :
    let s := State.reset.withFetchWord 32 0x0000000A
    let t := State.reset.withFetchWord 32 0x00000100
    s.busy = true ∧ s.moves.head? = some .engine ∧ 9 < (s.cmd.extractLsb' 0 8).toNat ∧
    t.busy = true ∧ t.moves.head? = some .engine ∧ t.cmd.extractLsb' 8 24 ≠ 0 := by decide

theorem test_witness_IdleBlockDoesNothing :
    State.reset.busy = false ∧ State.reset.moves = [] ∧ (idleWith [.engine]).moves.head? = some .engine := by decide

theorem test_witness_EveryAcceptedCommandCompletes :
    (State.reset.withFetchWord 32 0xFF).busy = true ∧ (State.reset.withFetchWord 32 0xFF).moves.head? = some .engine ∧
    (busyWith []).busy = true ∧ (busyWith []).moves = [] := by decide

/-- Also the premise (BUSY = 0, ERR = 0) of the last clause of NopAndInvalidateFollowTheirRules, and of the composites' statement. -/
theorem test_witness_IssuedCommandRunsSafely :
    State.reset.busy = false ∧ State.reset.hostViol = false ∧ State.reset.err = false := by decide

/-- The geometry at its bounds: the largest legal frame and the two rows beyond it, and zero. -/
theorem test_witness_geometry :
    (frame 640 512 0 0 []).GeometryLegal ∧ (frame 327680 1 0 0 []).GeometryLegal ∧ (frame 1 1 0 0 []).GeometryLegal ∧
    ¬ (frame 327681 1 0 0 []).GeometryLegal ∧ ¬ (frame 0 1 0 0 []).GeometryLegal ∧ ¬ (frame 1 0 0 0 []).GeometryLegal ∧
    ¬ (frame 0x10000 0x10000 0 0 []).GeometryLegal := by decide

/-- LoadBeFollowsItsRule, LoadNativeFollowsItsRule: their four clauses. -/
theorem test_witness_LoadersFollowTheirRules :
    ¬ (frame 0 1 0 0 []).GeometryLegal ∧
    ((frame 1 1 1 0 []).GeometryLegal ∧ (frame 1 1 1 0 []).rawLen.toNat < 2 * (1 * 1)) ∧
    ((frame 1 1 3 0 []).GeometryLegal ∧ 2 * (1 * 1) < (frame 1 1 3 0 []).rawLen.toNat) ∧
    ((frame 640 512 655360 0 []).GeometryLegal ∧
      (frame 640 512 655360 0 []).rawLen.toNat =
        2 * ((frame 640 512 655360 0 []).width.toNat * (frame 640 512 655360 0 []).height.toNat)) := by decide

theorem test_witness_CompressedPixelIsTheIntegerQuotient :
    (0 ≤ 1 ∧ 0 < 1 ∧ 1 ≤ 65535) ∧ (65535 ≤ 65535 ∧ 0 < 65535 ∧ 65535 ≤ 65535) := by decide

/-- Illegal geometry; no Frame16; the flat frame [7, 7] under both policies; a frame that is not flat. -/
theorem test_witness_CompressFollowsItsRule :
    ¬ (frame 1 0 0 1 []).GeometryLegal ∧ ((frame 1 1 0 0 []).GeometryLegal ∧ (frame 1 1 0 0 []).vF16 = false) ∧
    ((v12 0).GeometryLegal ∧ (v12 0).vF16 = true ∧ (∀ i < 2, (v12 0).f16At i = 7) ∧ (v12 0).flatZero = false ∧
      (∀ i < 2, (v12 2).f16At i = 7) ∧ (v12 2).flatZero = true) ∧
    (v10.GeometryLegal ∧ v10.vF16 = true ∧ v10.f16At 0 = 0 ∧ v10.f16At 1 = 16383 ∧
      ∀ i < 4, 0 ≤ v10.f16At i ∧ v10.f16At i ≤ 16383) := by decide

/-- Also the premises of HistStatisticsAreConsistent. -/
theorem test_witness_HistFollowsItsRule :
    ¬ (frame 0 0 0 2 []).GeometryLegal ∧ ((frame 1 1 0 0 []).GeometryLegal ∧ (frame 1 1 0 0 []).vF8in = false) ∧
    v20.GeometryLegal ∧ v20.vF8in = true ∧ ∃ t, exec .hist v20 = .next t :=
  ⟨by decide, by decide, by decide, by decide, _, rfl⟩

/-- Statistics of a frame of one pixel: K = 1 and gain 1.0 give kg = 1 and k' = 1, so that MHIST is HIST, which is 0 but
for its bin 0. -/
def pointStats (ctrl k count : Word) (bin : Byte) : State :=
  { frame 1 1 0 4 (cellsFrom 0x00001000 (bin :: List.replicate 1023 0)) with
    ctrl := ctrl, k := k, count := count, gain := 0x3FF0000000000000 }

/-- What every clause about the steps assumes. -/
def readyForSteps (s : State) : Bool :=
  decide s.GeometryLegal && s.vStats && isfinite s.gain && flt 0 s.gain && !isinf s.toneKg

theorem pointStats_byteAt (ctrl k count : Word) (bin : Byte) (j : Nat) (hj : j < 1024) :
    (pointStats ctrl k count bin).byteAt (0x00001000 + j) = if j = 0 then bin else 0 := by
  unfold State.byteAt Memory.byteAt Memory.written pointStats frame
  rw [cellsFrom_lookup, if_pos (by omega), Nat.add_sub_cancel_left]
  cases j with
  | zero => rfl
  | succ j =>
    rw [List.getElem?_cons_succ, List.getElem?_replicate, if_pos (by omega), if_neg (by omega)]; rfl

theorem pointStats_histAt (ctrl k count : Word) (bin : Byte) (i : Nat) (hi : i < 256) :
    (pointStats ctrl k count bin).histAt i = if i = 0 then bin.toNat else 0 := by
  unfold State.histAt State.wordAt
  rw [show 0x00001000 + 4 * i + 3 = 0x00001000 + (4 * i + 3) by omega,
    show 0x00001000 + 4 * i + 2 = 0x00001000 + (4 * i + 2) by omega,
    show 0x00001000 + 4 * i + 1 = 0x00001000 + (4 * i + 1) by omega,
    pointStats_byteAt _ _ _ _ _ (by omega), pointStats_byteAt _ _ _ _ _ (by omega),
    pointStats_byteAt _ _ _ _ _ (by omega), pointStats_byteAt _ _ _ _ _ (by omega),
    if_neg (by omega), if_neg (by omega), if_neg (by omega)]
  by_cases h : i = 0
  · subst h; simp; rw [BitVec.toNat_append]; simp
  · rw [if_neg (by omega), if_neg h]; rfl

/-- A running sum of which every later term adds nothing. -/
theorem runningSum_const {x : Nat → F64} {c : F64} (h0 : fadd 0 (x 0) = c) :
    ∀ n, (∀ i, 1 ≤ i → i ≤ n → fadd c (x i) = c) → runningSum x n = c
  | 0, _ => h0
  | n + 1, h => by
    rw [runningSum, runningSum_const h0 n fun i h1 h2 => h i h1 (by omega)]
    exact h (n + 1) (by omega) (by omega)

/-- kg = 1: the element of bin 0 is 1.0, every other is 0. -/
theorem pointStats_toneP (i : Nat) (hi : i < 256) :
    (pointStats 0 1 1 1).toneP i = if i = 0 then f64_1 else 0 := by
  unfold State.toneP State.toneMh; rw [pointStats_histAt _ _ _ _ i hi]
  by_cases h : i = 0
  · rw [if_pos h, if_pos h]; decide +kernel
  · rw [if_neg h, if_neg h]; decide +kernel

/-- A PDF with its greatest element at bin 0 and its least at bin 1, whose sum is 1.0. -/
theorem pointStats_extremes : (pointStats 0 1 1 1).ToneExtremes 1 0 ∧
    feq ((pointStats 0 1 1 1).toneP 0) ((pointStats 0 1 1 1).toneP 1) = false ∧
    feq ((pointStats 0 1 1 1).toneS 1 0) 0 = false := by
  have h0 := (pointStats_toneP 0 (by omega)).trans (if_pos rfl)
  have h (i : Nat) (hi : i < 256) (hn : i ≠ 0) := (pointStats_toneP i hi).trans (if_neg hn)
  have h1 := h 1 (by omega) (by omega)
  refine ⟨⟨by omega, by omega, fun i hi => ?_, fun i hi => ?_⟩, by rw [h0, h1]; decide +kernel, ?_⟩
  · by_cases hz : i = 0
    · rw [hz, h0, h1]; decide +kernel
    · rw [h i hi hz, h1]; decide +kernel
  · by_cases hz : i = 0
    · rw [hz, h0]; decide +kernel
    · rw [h i hi hz, h0]; decide +kernel
  · have hs : (pointStats 0 1 1 1).toneS 1 0 = f64_1 := by
      refine runningSum_const ?_ 255 fun i hi hn => ?_
      · unfold State.tonePw; rw [h0, h1]; decide +kernel
      · unfold State.tonePw; rw [h i (by omega) (by omega), h0, h1]; decide +kernel
    rw [hs]; decide +kernel

/-- The element of a bin, where bin 0 is no different from the others. -/
theorem flatStats_toneP {ctrl k count : Word} {p : F64}
    (h : fdiv (f64OfNat (roundHalfAway (fadd (fmul (fsub 0x3FF0000000000000 (pointStats ctrl k count 0).toneKprime)
      (pointStats ctrl k count 0).toneUAt) (fmul (pointStats ctrl k count 0).toneKprime (f64OfNat 0)))).toNat)
      (f64OfNat (1 * 1)) = p) (i : Nat) (hi : i < 256) : (pointStats ctrl k count 0).toneP i = p := by
  unfold State.toneP State.toneMh
  rw [pointStats_histAt _ _ _ _ i hi]
  by_cases hz : i = 0
  · rw [if_pos hz]; exact h
  · rw [if_neg hz]; exact h

/-- With every element the same p, any bin is least and greatest, and Step 5's fallback takes the elements themselves. -/
theorem flatStats_extremes {ctrl k count : Word} {p : F64} (h : ∀ i < 256, (pointStats ctrl k count 0).toneP i = p)
    (hp : flt p p = false) (he : feq p p = true) : (pointStats ctrl k count 0).ToneExtremes 0 255 ∧
    feq ((pointStats ctrl k count 0).toneP 255) ((pointStats ctrl k count 0).toneP 0) = true ∧
    ∀ i < 256, (pointStats ctrl k count 0).tonePw 0 255 i = p := by
  have h0 := h 0 (by omega)
  have h255 := h 255 (by omega)
  refine ⟨⟨by omega, by omega, fun i hi => by rw [h i hi, h0]; exact hp, fun i hi => by rw [h i hi, h255]; exact hp⟩,
    by rw [h0, h255]; exact he, fun i hi => ?_⟩
  unfold State.tonePw
  rw [h255, h0, if_pos he, h i hi]

/-- The clauses without a fallback (also the premises of NonDegeneratePdfReachesTheTable) and with both fallbacks taken: kg = 0
and COUNT = 256 make every element 1.0 and the sum 256. -/
theorem test_witness_ToneCompletesWithTheStepFormulas :
    (readyForSteps (pointStats 0 1 1 1) = true ∧ feq (pointStats 0 1 1 1).toneKg 0 = false ∧
      (pointStats 0 1 1 1).ToneExtremes 1 0 ∧
      feq ((pointStats 0 1 1 1).toneP 0) ((pointStats 0 1 1 1).toneP 1) = false ∧
      feq ((pointStats 0 1 1 1).toneS 1 0) 0 = false) ∧
    (readyForSteps (pointStats 12 0 256 0) = true ∧ (pointStats 12 0 256 0).kFallback = true ∧
      (pointStats 12 0 256 0).ToneExtremes 0 255 ∧ (pointStats 12 0 256 0).pdfFallback = true ∧
      feq ((pointStats 12 0 256 0).toneS 0 255) 0 = false) := by
  have hp := flatStats_toneP (ctrl := 12) (k := 0) (count := 256) (p := f64_1) (by decide +kernel)
  obtain ⟨he, -, hw⟩ := flatStats_extremes hp (by decide +kernel) (by decide +kernel)
  refine ⟨⟨by decide +kernel, by decide +kernel, pointStats_extremes⟩, by decide +kernel, by decide, he, by decide, ?_⟩
  have hadd : ∀ n < 255, fadd (f64OfNat (n + 1)) f64_1 = f64OfNat (n + 2) := by decide +kernel
  have hsum : ∀ n, n < 256 → runningSum ((pointStats 12 0 256 0).tonePw 0 255) n = f64OfNat (n + 1) := by
    intro n
    induction n with
    | zero => intro _; rw [runningSum, hw 0 (by omega)]; decide +kernel
    | succ n ih => intro hn; rw [runningSum, ih (by omega), hw _ hn]; exact hadd n (by omega)
  unfold State.toneS
  rw [hsum 255 (by omega)]; decide +kernel

/-- The clauses of TONE's errors: each check in its order, the two causes of step 2, and steps 5 and 6 on COUNT = 0. -/
theorem test_witness_ToneRaisesItsErrorsInOrder :
    ¬ (frame 0 1 0 4 []).GeometryLegal ∧ ((frame 1 1 0 0 []).GeometryLegal ∧ (frame 1 1 0 0 []).vStats = false) ∧
    (isfinite ({ rampStats with gain := 0x7FF0000000000000 } : State).gain = false ∧
      flt 0 ({ rampStats with gain := 0x8000000000000000 } : State).gain = false) ∧
    (feq (pointStats 0 0 0 0).toneKg 0 = true ∧ (pointStats 0 0 0 0).kFallback = false ∧
      isinf ({ rampStats with gain := 0x7FE1CCF385EBC8A0 } : State).toneKg = true) ∧
    (readyForSteps (pointStats 4 0 0 0) = true ∧ (pointStats 4 0 0 0).kFallback = true ∧
      (pointStats 4 0 0 0).ToneExtremes 0 255 ∧ feq ((pointStats 4 0 0 0).toneP 255) ((pointStats 4 0 0 0).toneP 0) = true ∧
      (pointStats 4 0 0 0).pdfFallback = false) ∧
    (readyForSteps (pointStats 12 0 0 0) = true ∧ (pointStats 12 0 0 0).ToneExtremes 0 255 ∧
      (pointStats 12 0 0 0).pdfFallback = true ∧ feq ((pointStats 12 0 0 0).toneS 0 255) 0 = true) := by
  have h4 := flatStats_toneP (ctrl := 4) (k := 0) (count := 0) (p := 0) (by decide +kernel)
  have h12 := flatStats_toneP (ctrl := 12) (k := 0) (count := 0) (p := 0) (by decide +kernel)
  obtain ⟨e4, f4, -⟩ := flatStats_extremes h4 (by decide +kernel) (by decide +kernel)
  obtain ⟨e12, -, w12⟩ := flatStats_extremes h12 (by decide +kernel) (by decide +kernel)
  refine ⟨by decide, by decide, by decide +kernel, by decide +kernel,
    ⟨by decide +kernel, by decide, e4, f4, by decide⟩, by decide +kernel, e12, by decide, ?_⟩
  have hs : (pointStats 12 0 0 0).toneS 0 255 = 0 :=
    runningSum_const (by rw [w12 0 (by omega)]; decide +kernel) 255 fun i _ hi => by
      rw [w12 i (by omega)]; decide +kernel
  rw [hs]; decide +kernel

/-- K = 0 and K > 0, without and with the fallbacks. -/
theorem test_witness_ZeroCountNeverGivesATable :
    [0, 4, 8, 12].map (fun ctrl => (readyForSteps (pointStats ctrl 0 0 0), readyForSteps (pointStats ctrl 1 0 0))) =
      List.replicate 4 (true, true) ∧
    (pointStats 0 0 0 0).count = 0 ∧ ∀ v < 256, (pointStats 0 0 0 0).histAt v = 0 := by
  refine ⟨by decide +kernel, rfl, fun v hv => ?_⟩
  rw [pointStats_histAt _ _ _ _ v hv]; split <;> rfl

/-- The least and the greatest positive finite value, a power of two and another. -/
theorem test_witness_BlendFactorLiesAboveOneHalf :
    ([0x0000000000000001, 0x7FEFFFFFFFFFFFFF, 0x3FF0000000000000, 0x4085E00000000000] : List F64).map
      (fun kg => (isfinite kg, flt 0 kg)) = List.replicate 4 (true, true) := by decide +kernel

/-- K at its bounds, with the least positive gain. -/
theorem test_witness_KgIsZeroExactlyWhenKIs :
    (0 < 4294967296 ∧ 4294967295 < 4294967296) ∧ isfinite 0x0000000000000001 = true ∧ flt 0 0x0000000000000001 = true ∧
    feq (fmul (f64OfNat 0) 0x0000000000000001) 0 = true ∧ feq (fmul (f64OfNat 1) 0x0000000000000001) 0 = false := by
  decide +kernel

theorem test_witness_RemapFollowsItsRule :
    ¬ (frame 0 1 0 10 []).GeometryLegal ∧
    ((frame 1 1 0 8 []).GeometryLegal ∧ (frame 1 1 0 8 []).vF8in = false) ∧
    ((frame 1 1 0 2 []).GeometryLegal ∧ (frame 1 1 0 2 []).vTone = false) ∧
    rampTable.GeometryLegal ∧ rampTable.vF8in = true ∧ rampTable.vTone = true := by decide

/-- An outcome that is a table is that of some table. -/
theorem exists_ok_of_isOk {α : Type} {x : Except StageError α} (h : x.isOk = true) : ∃ r, x = .ok r := by
  cases x with
  | ok r => exact ⟨r, rfl⟩
  | error e => cases h

/-- The stream `00 00 E0 00`: two samples, 8192 and 0, that compress to 255 and 0. -/
def twoSamples : State := frame 2 1 4 0 (cellsFrom 0x01000000 [0x00, 0x00, 0xE0, 0x00])

/-- It with the compressed frame in F8IN. -/
def twoPixels : State := { twoSamples with mem := cellsFrom 0x03000000 [255, 0] }

theorem test_witness_PipelineCompletes :
    twoSamples.GeometryLegal ∧ twoSamples.rawLen.toNat = 2 * (twoSamples.width.toNat * twoSamples.height.toNat) ∧
    loadBeClosed (twoSamples.sampleBE 1) = 0 ∧ loadBeClosed (twoSamples.sampleBE 0) = 8192 ∧
    (∀ i < 2, 0 ≤ loadBeClosed (twoSamples.sampleBE i) ∧ loadBeClosed (twoSamples.sampleBE i) ≤ 8192) ∧
    isfinite twoSamples.gain = true ∧ flt 0 twoSamples.gain = true ∧ twoPixels = { twoSamples with mem := twoPixels.mem } ∧
    (∀ i < 2, twoPixels.f8inAt i = 255 * (loadBeClosed (twoSamples.sampleBE i) - 0) / (8192 - 0)) ∧
    ∃ r, toneSteps Config.params twoSamples (twoSamples.width.toNat * twoSamples.height.toNat) twoPixels.frameK
      twoPixels.frameCount ((List.range 256).map twoPixels.frameHist) = .ok r :=
  ⟨by decide, by decide, by decide, by decide, by decide, by decide +kernel, by decide +kernel, rfl, by decide,
    exists_ok_of_isOk (by decide +kernel)⟩

/-- The compressed frame is also a frame that ENHANCE completes on. -/
theorem test_witness_EnhanceCompletes :
    let s := { twoPixels with valid := 2 }
    s.GeometryLegal ∧ s.vF8in = true ∧ isfinite s.gain = true ∧ flt 0 s.gain = true ∧
    ∃ r, toneSteps Config.params s (s.width.toNat * s.height.toNat) s.frameK s.frameCount
      ((List.range 256).map s.frameHist) = .ok r :=
  ⟨by decide, by decide, by decide +kernel, by decide +kernel, test_witness_PipelineCompletes.2.2.2.2.2.2.2.2.2⟩

/-- GeometryIsCheckedFirst, MissingInputRaisesSequence: illegal geometry, with a command that checks it and one that does not; and legal geometry with an input missing. -/
theorem test_witness_checks :
    (¬ (frame 0 0 0 0 []).GeometryLegal ∧ firstStageOf .pipeline = some 1 ∧ firstStageOf .nop = none) ∧
    let s := frame 1 1 2 0 []
    s.GeometryLegal ∧ s.vF16 = false ∧ s.vF8in = false ∧ s.vStats = false ∧ s.vTone = false ∧
      s.rawLen.toNat = 2 * (s.width.toNat * s.height.toNat) := by decide

/-- A command that ends with an error and one that does not (FailedStageWritesNothing, AlphaHasNoEffect,
NoCommandWritesTheHostsState, RepeatedCommandGivesTheSameState). -/
theorem test_witness_all_commands :
    (∃ t, exec .hist State.reset = .next t ∧ State.reset.err = false ∧ t.err = true) ∧
    v20.mem.wf = true ∧ ∃ t, exec .hist v20 = .next t :=
  ⟨⟨_, rfl, by decide, by decide⟩, by decide, _, rfl⟩

/-- IllFormedAccessHasNoEffect, AccessOutsideTheBlockIsRefused: both reasons for the ERROR response, at the ends of the ranges, and both sides of the decoded range. -/
theorem test_witness_bus_errors :
    (∀ a ∈ [0x1001, 0x04FFFFFF], a ≤ 0x04FFFFFF ∧ a % AccessSize.half.bytes ≠ 0) ∧
    (∀ a ∈ [0x000, 0xFFF], a ≤ 0x04FFFFFF ∧ a ≤ 0xFFF ∧ AccessSize.byte ≠ .word) ∧ 0x04FFFFFF < 0x05000000 ∧
    (idleWith [.access (.read .byte 0x05000000)]).moves = .access (.read .byte 0x05000000) :: [] := by decide

theorem test_witness_ReadsHaveNoSideEffect :
    let s := idleWith [.access (.read .word 0x010), .access (.read .word 0x010)]
    s.busy = false ∧ ∃ t u, step s = .next t ∧ step t = .next u :=
  ⟨by decide, _, _, rfl, rfl⟩

/-- The clauses of a write while BUSY = 1, each at the ends of its range: CTRL and GAIN_HI, ERRINFO, 0x030 and 0xFFC, both ends of
RAW and of F8IN, and the offsets right beside them. -/
theorem test_witness_WritesWhileBusyAreDropped :
    (busyWith [.access (.write .word 0x000 0)]).busy = true ∧
    (∀ a ∈ [0x000, 0x02C], a % AccessSize.word.bytes = 0 ∧ a ≤ 0x04FFFFFF) ∧
    (∀ a ∈ [0x00C, 0x030, 0xFFC], a % AccessSize.word.bytes = 0 ∧ (a = 0x00C ∨ (0x030 ≤ a ∧ a ≤ 0xFFF))) ∧
    (∀ a ∈ [0x01000000, 0x01000000 + 655359, 0x03000000, 0x03000000 + 327679], a % AccessSize.byte.bytes = 0 ∧
      ((0x01000000 ≤ a ∧ a < 0x01000000 + 655360) ∨ (0x03000000 ≤ a ∧ a < 0x03000000 + 327680))) ∧
    (∀ a ∈ [0x1000, 0x00FFFFFF, 0x01000000 + 655360, 0x02FFFFFF, 0x03000000 + 327680, 0x04FFFFFF],
      a % AccessSize.byte.bytes = 0 ∧ 0x1000 ≤ a ∧ a ≤ 0x04FFFFFF ∧
      ¬ ((0x01000000 ≤ a ∧ a < 0x01000000 + 655360) ∨ (0x03000000 ≤ a ∧ a < 0x03000000 + 327680))) := by decide

/-- CommandWordIsAcceptedWhenIdle, StatusWriteClearsOnlyWrittenBits, IdleRegisterWritesStore,
IdleRegisterReadsReturnTheRegister: CMD and STATUS writes, idle and busy; the register offsets at their ends; reads of registers. -/
theorem test_witness_register_accesses :
    (idleWith [.access (.write .word 0x008 7)]).busy = false ∧ (busyWith [.access (.write .word 0x008 7)]).busy = true ∧
    (busyWith [.access (.write .word 0x004 7)]).moves = .access (.write .word 0x004 7) :: [] ∧
    (∀ a ∈ [0x000, 0x00C, 0x02C, 0x030, 0xFFC], a % 4 = 0 ∧ a ≤ 0xFFF ∧ a ≠ 0x004 ∧ a ≠ 0x008) ∧
    (∀ r ∈ [RegName.ctrl, .cdfsumHi], (idleWith [.access (.read .word r.offset)]).busy = false) := by decide

/-- Both ends of RAW and F8IN at every width. -/
theorem test_witness_WindowWriteThenReadReturnsTheData :
    ∀ n ∈ [AccessSize.byte, .half, .word],
      ∀ a ∈ [0x01000000, 0x01000000 + 655360 - n.bytes, 0x03000000, 0x03000000 + 327680 - n.bytes],
        (idleWith [.access (.write n a 7), .access (.read n a)]).busy = false ∧ a % n.bytes = 0 ∧
        ((0x01000000 ≤ a ∧ a < 0x01000000 + 655360) ∨ (0x03000000 ≤ a ∧ a < 0x03000000 + 327680)) := by decide

/-- Both ends of every reserved range, and of every read-only window. -/
theorem test_witness_ReservedSpaceReadsZeroAndIgnoresWrites :
    (∀ a ∈ [0x078, 0xFFC], a % AccessSize.word.bytes = 0 ∧ 0x078 ≤ a ∧ a ≤ 0xFFF) ∧
    (∀ r ∈ [(0x3100, 0x01000000), (0x01000000 + 655360, 0x02000000), (0x02000000 + 655360, 0x03000000),
        (0x03000000 + 327680, 0x04000000), (0x04000000 + 327680, 0x05000000), (0x1000, 0x3100),
        (0x02000000, 0x02000000 + 655360), (0x04000000, 0x04000000 + 327680)],
      r.1 % AccessSize.byte.bytes = 0 ∧ r.1 < r.2 ∧ r.2 - 1 < r.2) ∧
    (idleWith [.access (.write .byte 0x1000 7)]).moves = .access (.write .byte 0x1000 7) :: [] := by decide

/-- The ends of every range of buffer elements, at every width. -/
def windowEnds : List (AccessSize × Nat) :=
  [AccessSize.byte, .half, .word].flatMap fun n =>
    [0x1000, 0x3100 - n.bytes, 0x01000000, 0x01000000 + 655360 - n.bytes, 0x02000000, 0x02000000 + 655360 - n.bytes,
     0x03000000, 0x03000000 + 327680 - n.bytes, 0x04000000, 0x04000000 + 327680 - n.bytes].map fun a => (n, a)

theorem windowEnds_inside :
    ∀ e ∈ windowEnds, e.2 % e.1.bytes = 0 ∧
      ((0x1000 ≤ e.2 ∧ e.2 < 0x3100) ∨ (0x01000000 ≤ e.2 ∧ e.2 < 0x01000000 + 655360) ∨
        (0x02000000 ≤ e.2 ∧ e.2 < 0x02000000 + 655360) ∨ (0x03000000 ≤ e.2 ∧ e.2 < 0x03000000 + 327680) ∨
        (0x04000000 ≤ e.2 ∧ e.2 < 0x04000000 + 327680)) := by decide

/-- The configuration registers, and the ends of every range that is drawn while BUSY = 1. -/
theorem test_witness_BusyReadsReturnConfigurationOrADraw :
    (busyWith [.access (.read .word RegName.gainHi.offset)]).busy = true ∧ RegName.gainHi.offset = 0x02C ∧
    (∀ a ∈ [0x00C, 0x01C, 0x030, 0x074], a = 0x00C ∨ a = 0x01C ∨ (0x030 ≤ a ∧ a ≤ 0x074 ∧ a % 4 = 0)) ∧
    (busyWith [.access (.read .half 0x04000000)]).busy = true ∧ (.half, 0x04000000) ∈ windowEnds := by decide

/-- An element of every buffer at both ends, read while the block is idle. -/
theorem test_witness_IdleWindowReadsReturnTheElement :
    (∀ i ∈ [0, 255], i < 256 ∧
      (idleWith [.access (.read .word (0x2800 + 8 * i + 4))]).moves = .access (.read .word (0x2800 + 8 * i + 4)) :: []) ∧
    (∀ i ∈ [0, 655359], i < 655360) ∧ (∀ i ∈ [0, 327679], i < 327680) ∧
    (idleWith [.access (.read .word 0x1000)]).busy = false ∧ (.word, 0x1000) ∈ windowEnds := by decide

theorem test_witness_F16WindowReadsReturnSamples :
    (∀ i ∈ [0, 327679], i < 327680) ∧ (∀ i ∈ [0, 163839], 2 * i + 1 < 327680) ∧
    (idleWith [.access (.read .half (0x02000000 + 2 * 327679))]).busy = false := by decide

/-- `irq` rises at a completion with IRQ_EN = 1, and when IRQ_EN is set with DONE = 1. -/
theorem test_witness_InterruptRisesOnlyOnCompletionOrEnable :
    let s := { State.reset.withFetchWord 32 0 with ctrl := 1 }
    let u := { idleWith [.access (.write .word 0x000 1)] with status := 0x00000002 }
    (s.irq = false ∧ seen State.irq (step s) = some true) ∧ (u.irq = false ∧ seen State.irq (step u) = some true) := by
  decide

/-- HOST_VIOL cleared by reset and by the host. -/
theorem test_witness_ViolationStaysUntilCleared :
    ∀ m ∈ [Move.reset, .access (.write .word 0x004 0x00000008)],
      ({ idleWith [m] with status := 0x00000008 } : State).hostViol = true ∧
      seen State.hostViol (step { idleWith [m] with status := 0x00000008 }) = some false := by decide

/-- An idle state after an error, with a loaded frame of one sample and an output of one pixel. -/
def afterError : State :=
  { frame 1 1 2 0x11 (cellsFrom 0x02000000 [0xFF, 0x3F] ++ cellsFrom 0x04000000 [1]) with
    status := 0x0000030E, errinfo := 0x00000605, ctrl := 0x1F, fallback := 7, maxv := 0xFFFF,
    moves := [.access (.write .word 0x008 4)] }

/-- StepKeepsRegistersOk, StepKeepsResultsOk, StepKeepsRangesOk: it meets the three invariants, and a step leaves it. -/
theorem test_witness_StepKeepsTheInvariants :
    afterError.RegistersOk ∧ afterError.ResultsOk ∧ afterError.RangesOk ∧ ∃ t, step afterError = .next t := by
  have written (b : Buffer) (n : Nat) (h : ∀ j < b.elemBytes * n, (afterError.mem.written (b.base + j)).isSome = true) :
      afterError.Written b n := h
  refine ⟨⟨by decide, by decide, by decide, by decide, by decide, by decide, by decide, by decide, by decide⟩,
    ⟨fun _ => ⟨by decide, written _ _ (by decide)⟩, ?_, ?_, fun _ => ⟨by decide, written _ _ (by decide)⟩⟩,
    ⟨fun _ => ⟨by decide, by decide⟩, ?_, ?_, ?_⟩, _, rfl⟩
  all_goals (intro h; exact absurd h (by decide))

/-- A rounding of 2/3 of a least subnormal; the greatest finite magnitude; the tie between 0 and the least subnormal, which
goes to 0; an overflow; the operands 1.0 and -0. -/
theorem test_witness_RoundingGivesANearestValue :
    0 < 3 ∧ roundMag 2 3 < f64Inf ∧ 0x7FEFFFFFFFFFFFFF < f64Inf ∧
    roundMag (f64Units 0x7FEFFFFFFFFFFFFF) 1 < f64Inf ∧
    (1 ≠ roundMag 1 2 ∧ ((f64Units (f64Make false (roundMag 1 2)) : Int) * 2 - 1).natAbs =
      ((f64Units (f64Make false 1) : Int) * 2 - 1).natAbs) ∧
    roundMag (f64Units 0x7FEFFFFFFFFFFFFF * 2) 1 = f64Inf ∧
    isfinite 0x3FF0000000000000 = true ∧ isfinite 0x8000000000000000 = true ∧ f64Mag 0x3FF0000000000000 ≠ 0 := by
  decide +kernel

/-- The least and the greatest positive finite value, and 2. -/
theorem test_witness_SquareRootIsCorrectlyRounded :
    ([0x0000000000000001, 0x7FEFFFFFFFFFFFFF, 0x4000000000000000] : List F64).map (fun x => (isfinite x, flt 0 x)) =
      List.replicate 3 (true, true) := by decide +kernel

/-- A TONE that committed, of one element. -/
theorem test_witness_CdfRisesToOne :
    State.err (pointStats 0 1 1 1) = false ∧
    ∃ t, exec .tone (pointStats 0 1 1 1) = .next t ∧ t.err = false :=
  ⟨by decide, _, rfl, by decide +kernel⟩

end Sys2Proof.Tests
end

/-! ## The engine's commands: the stages of each, and everything a stage that commits can do to the state -/

namespace Sys2Proof.Machine

/-! ### The stages of a command, and the states they commit -/

/-- The stages a command runs, in order (R144). -/
def stagesOf : Instr → List Stage
  | .nop => []
  | .loadBe => [stageLoadBe Config.params]
  | .loadNative => [stageLoadNative Config.params]
  | .compress => [stageCompress Config.params]
  | .hist => [stageHist Config.params]
  | .tone => [stageTone Config.params]
  | .remap => [stageRemap Config.params]
  | .enhance => [stageHist Config.params, stageTone Config.params, stageRemap Config.params]
  | .pipeline => [stageLoadBe Config.params, stageCompress Config.params, stageHist Config.params,
      stageTone Config.params, stageRemap Config.params]
  | .invalidate => [stageInvalidate]

theorem exec_eq_runCommand (i : Instr) (s : State) : exec i s = .next (runCommand (stagesOf i) s) := by
  cases i <;> rfl

/-- Every result of TONE fills its buffer: 256 elements of each (R131). -/
def ToneResult.Sized (r : ToneResult) : Prop :=
  r.mhist.length = 256 ∧ r.pdf.length = 256 ∧ r.pdfw.length = 256 ∧ r.cdfw.length = 256 ∧ r.lut.length = 256

/-- t is what a stage can commit from s: VALID cleared, or on legal geometry what one unit computes (R143). -/
def State.Commits (s t : State) : Prop :=
  t = { s with valid := 0 } ∨ s.GeometryLegal ∧
    ((∃ xs : List Half, t = commitF16 xs s ∧ xs.length = s.pixels ∧ ∀ x ∈ xs, x.toNat ≤ 16383) ∨
    (∃ (px : List Byte) (lo hi : Nat) (flat : Bool), t = commitCompress px lo hi flat s ∧ px.length = s.pixels) ∨
    (∃ diffs : List (Byte × Nat), t = commitHist (histBinsOf (histCounted s.thresholdValue diffs)) (histK diffs)
        (histCounted s.thresholdValue diffs).length s ∧ diffs.length = s.pixels ∧ ∀ e ∈ diffs, e.2 ≤ 255) ∨
    (∃ r : ToneResult, t = commitTone r s ∧ r.Sized) ∨
    ∃ px : List Byte, t = commitRemap px s ∧ px.length = s.pixels)

/-! ### The lengths and the ranges of what the stages compute -/

@[simp] theorem rawBytes_length (s : State) : s.rawBytes.length = 2 * s.pixels := read_length _ _ _ _

@[simp] theorem f8inPixels_length (s : State) : s.f8inPixels.length = s.pixels := read_length _ _ _ _

@[simp] theorem f16Samples_length (s : State) : s.f16Samples.length = s.pixels :=
  halvesOfBytes_length _ _ (read_length _ _ _ _)

theorem wordsOfBytes_length (n : Nat) (bs : List Byte) (h : bs.length = 4 * n) : (wordsOfBytes bs).length = n := by
  induction n generalizing bs with
  | zero => rw [List.length_eq_zero_iff.mp h]; rfl
  | succ n ih =>
    match bs, h with
    | b0 :: b1 :: b2 :: b3 :: bs, h => simp [wordsOfBytes, ih bs (by simpa [Nat.mul_add] using h)]

@[simp] theorem histBins_length (s : State) : s.histBins.length = 256 :=
  wordsOfBytes_length 256 _ (read_length _ _ _ _)

/-- The clamp of R87: a big-endian sample is at most 16383. -/
theorem loadBeSample_le (hi lo : Byte) : (loadBeSample hi lo).toNat ≤ 16383 := by
  rw [loadBeSample]
  generalize (hi ++ lo : Half).toInt + 8192 = t
  split
  · decide
  · split
    · decide
    · rw [BitVec.toNat_ofInt]; omega

/-- The clamp of R91: with the default NATIVE_CLAMP a native sample is at most 16383. -/
theorem loadNativeSample_le (lo hi : Byte) : (loadNativeSample Config.params lo hi).toNat ≤ 16383 := by
  simp only [loadNativeSample, show Config.params.nativeClamp = true from rfl, if_true]
  split
  · decide
  · omega

theorem forall_mem_samplesOf {P : Half → Prop} {sample : Byte → Byte → Half} (h : ∀ a b, P (sample a b))
    (bs : List Byte) : ∀ x ∈ samplesOf sample bs, P x := by
  induction bs using samplesOf.induct with
  | case1 b0 b1 bs ih => simpa [samplesOf] using ⟨h b0 b1, ih⟩
  | case2 bs hbs =>
    match bs, hbs with
    | [], _ => simp [samplesOf]
    | [_], _ => simp [samplesOf]
    | b0 :: b1 :: bs, hbs => exact absurd rfl (hbs b0 b1 bs)

@[simp] theorem backDiffs_length (w : Nat) (pixels : List Byte) : (backDiffs w pixels).length = pixels.length := by
  simp [backDiffs, withLeft2]; omega

/-- A back-difference is a difference of two bytes, or a byte (R103). -/
theorem backDiffs_le (w : Nat) (pixels : List Byte) : ∀ e ∈ backDiffs w pixels, e.2 ≤ 255 := by
  intro e he
  obtain ⟨⟨⟨p, q⟩, i⟩, -, rfl⟩ := List.mem_map.mp he
  have hp : p.toNat < 256 := p.isLt
  have hq : q.toNat < 256 := q.isLt
  simp only [absDiff]
  split <;> omega

theorem cumulate_length (c : F64) (xs : List F64) : (cumulate c xs).length = xs.length := by
  induction xs generalizing c with
  | nil => rfl
  | cons x xs ih => simp [cumulate, ih]

theorem toneWeight_length {fb : Bool} {lo hi : F64} {pdf : List F64} {w : List F64 × Bool}
    (h : toneWeight fb lo hi pdf = .ok w) : w.1.length = pdf.length := by
  simp only [toneWeight] at h
  split at h
  · split at h
    · cases h; rfl
    · cases h
  · cases h; simp

theorem toneTable_length (p : Params) (copy0 : Bool) (cdfw pdfw : List F64) (n : Nat) (hc : cdfw.length = n + 1)
    (hp : pdfw.length = n + 1) : (toneTable p copy0 cdfw pdfw).length = n + 1 := by
  simp [toneTable, hc, hp]

theorem toneSteps_sized {p : Params} {s : State} {n k count : Nat} {hist : List Nat} {r : ToneResult}
    (hlen : hist.length = 256) (h : toneSteps p s n k count hist = .ok r) : r.Sized := by
  rw [toneSteps_eq] at h
  split at h
  · cases h
  · rename_i b _
    split at h
    · cases h
    · rename_i w hw
      have hmhist : (toneModhist p b.kprime (toneU count) hist).length = 256 := by simp [toneModhist, hlen]
      have hpdf : (tonePdf n (toneModhist p b.kprime (toneU count) hist)).length = 256 := by simp [tonePdf, hmhist]
      have hpdfw : w.1.length = 256 := (toneWeight_length hw).trans hpdf
      have hcum : (toneCumulative w.1).length = 256 := (cumulate_length _ _).trans hpdfw
      split at h
      · cases h
      · cases h
        exact ⟨hmhist, hpdf, hpdfw, by simpa using hcum, toneTable_length _ _ _ _ 255 (by simpa using hcum) hpdfw⟩

/-! ### What each stage commits -/

theorem stageLoadBe_commits {s t : State} (h : stageLoadBe Config.params s = .ok t) : s.Commits t := by
  rw [stageLoadBe_eq] at h
  split at h
  · rename_i hd
    split at h
    · cases h
    · split at h
      · cases h
      · cases h
        exact .inr ⟨(dimsOk_iff s).mp hd, .inl ⟨_, rfl, samplesOf_length _ _ _ (rawBytes_length s),
          forall_mem_samplesOf loadBeSample_le _⟩⟩
  · cases h

theorem stageLoadNative_commits {s t : State} (h : stageLoadNative Config.params s = .ok t) : s.Commits t := by
  rw [stageLoadNative_eq] at h
  split at h
  · rename_i hd
    split at h
    · cases h
    · split at h
      · cases h
      · cases h
        exact .inr ⟨(dimsOk_iff s).mp hd, .inl ⟨_, rfl, samplesOf_length _ _ _ (rawBytes_length s),
          forall_mem_samplesOf loadNativeSample_le _⟩⟩
  · cases h

theorem stageCompress_commits {s t : State} (h : stageCompress Config.params s = .ok t) : s.Commits t := by
  rw [stageCompress_eq] at h
  split at h
  · rename_i hd
    have hlegal := (dimsOk_iff s).mp hd
    split at h
    · split at h
      · split at h
        · cases h; exact .inr ⟨hlegal, .inr (.inl ⟨_, _, _, _, rfl, by simp⟩)⟩
        · cases h
      · cases h; exact .inr ⟨hlegal, .inr (.inl ⟨_, _, _, _, rfl, by simp⟩)⟩
    · cases h
  · cases h

theorem stageHist_commits {s t : State} (h : stageHist Config.params s = .ok t) : s.Commits t := by
  rw [stageHist_eq] at h
  split at h
  · rename_i hd
    split at h
    · cases h; exact .inr ⟨(dimsOk_iff s).mp hd, .inr (.inr (.inl ⟨_, rfl, by simp, backDiffs_le _ _⟩))⟩
    · cases h
  · cases h

theorem stageTone_commits {s t : State} (h : stageTone Config.params s = .ok t) : s.Commits t := by
  rw [stageTone_eq] at h
  split at h
  · rename_i hd
    split at h
    · split at h
      · split at h
        · rename_i r hr
          cases h
          exact .inr ⟨(dimsOk_iff s).mp hd, .inr (.inr (.inr (.inl ⟨r, rfl, toneSteps_sized (by simp) hr⟩)))⟩
        · cases h
      · cases h
    · cases h
  · cases h

theorem stageRemap_commits {s t : State} (h : stageRemap Config.params s = .ok t) : s.Commits t := by
  rw [stageRemap_eq] at h
  split at h
  · rename_i hd
    split at h
    · cases h; exact .inr ⟨(dimsOk_iff s).mp hd, .inr (.inr (.inr (.inr ⟨_, rfl, by simp⟩)))⟩
    · cases h
  · cases h

theorem stageInvalidate_commits {s t : State} (h : stageInvalidate s = .ok t) : s.Commits t := by
  cases h; exact .inl rfl

/-- The inversion of every command's stages: a stage that does not raise makes one of the six commits. -/
theorem stage_commits {i : Instr} {stage : Stage} (hmem : stage ∈ stagesOf i) {s t : State} (h : stage s = .ok t) :
    s.Commits t := by
  have hcases : stage = stageLoadBe Config.params ∨ stage = stageLoadNative Config.params ∨
      stage = stageCompress Config.params ∨ stage = stageHist Config.params ∨ stage = stageTone Config.params ∨
      stage = stageRemap Config.params ∨ stage = stageInvalidate := by
    cases i <;> simp only [stagesOf, List.mem_cons, List.not_mem_nil, or_false] at hmem <;> tauto
  rcases hcases with rfl | rfl | rfl | rfl | rfl | rfl | rfl
  · exact stageLoadBe_commits h
  · exact stageLoadNative_commits h
  · exact stageCompress_commits h
  · exact stageHist_commits h
  · exact stageTone_commits h
  · exact stageRemap_commits h
  · exact stageInvalidate_commits h

/-- A property of states that every commit, completion and raising keeps is kept by every command. -/
theorem exec_keeps (P : State → Prop) (hcommit : ∀ x y, P x → x.Commits y → P y)
    (hcomplete : ∀ x, P x → P x.complete) (hraise : ∀ x e, P x → P (x.raise e))
    {i : Instr} {s t : State} (h : P s) (hexec : exec i s = .next t) : P t := by
  rw [exec_eq_runCommand] at hexec
  cases hexec
  exact runCommand_keeps P _ s h (fun _ hst x y hx hy => hcommit x y hx (stage_commits hst hy)) hcomplete hraise

end Sys2Proof.Machine

/-! ## Settling O51 and O10: the ranges that every step keeps, and the run of an issued command -/

namespace Sys2Proof.Machine

/-! ### Buffers that an update leaves alone -/

/-- The bytes of a buffer read in t as in s. -/
def State.KeepsBuffer (s t : State) (b : Buffer) : Prop :=
  ∀ a, bufferAt Config.params a = some b → t.byteAt a = s.byteAt a

/-- A store that fits its buffer leaves every other buffer alone: the buffers do not overlap (R56). -/
theorem byteAt_store_other (m : Memory) (epoch a : Nat) {b c : Buffer} {bs : List Byte} (hne : b ≠ c)
    (hfit : bs.length ≤ c.bytes Config.params) (ha : bufferAt Config.params a = some b) :
    (m.store c bs).byteAt epoch a = m.byteAt epoch a := by
  refine byteAt_write_outside _ _ _ _ _ ?_
  by_contra hin
  have hc : bufferAt Config.params a = some c := (bufferAt_iff a c).mpr (by omega)
  exact hne (Option.some.inj (ha.symm.trans hc))

/-- TONE stores into its five buffers only (R131). -/
theorem byteAt_toneStore_other {r : ToneResult} (hr : r.Sized) (m : Memory) (epoch a : Nat) {b : Buffer}
    (hb : b ∉ [Buffer.mhist, .pdf, .pdfw, .cdfw, .lut]) (ha : bufferAt Config.params a = some b) :
    (toneStore r m).byteAt epoch a = m.byteAt epoch a := by
  simp only [List.mem_cons, List.not_mem_nil, or_false, not_or] at hb
  obtain ⟨hmhist, hpdf, hpdfw, hcdfw, hlut⟩ := hb
  obtain ⟨lenMhist, lenPdf, lenPdfw, lenCdfw, lenLut⟩ := hr
  rw [toneStore, byteAt_store_other _ _ _ hlut lenLut.le ha,
    byteAt_store_other _ _ _ hcdfw (by rw [flatMap_length_const _ 8 dwordBytes_length, lenCdfw]; decide) ha,
    byteAt_store_other _ _ _ hpdfw (by rw [flatMap_length_const _ 8 dwordBytes_length, lenPdfw]; decide) ha,
    byteAt_store_other _ _ _ hpdf (by rw [flatMap_length_const _ 8 dwordBytes_length, lenPdf]; decide) ha,
    byteAt_store_other _ _ _ hmhist
      (by rw [flatMap_length_const _ 4 fun n => wordElemBytes_length (BitVec.ofNat 32 n), lenMhist]; decide) ha]

/-- The host's bytes reach no buffer but RAW and F8IN (R56). -/
theorem written_storeHostBytes_other {b : Buffer} (hb : b.hostWritable = false) (bs : List Byte) (off a : Nat)
    (m : Memory) (ha : bufferAt Config.params a = some b) :
    (storeHostBytes Config.params bs off m).written a = m.written a := by
  rw [written_storeHostBytes, if_neg]
  simp [hostWritableAt, ha, hb]

/-! ### The two halves of the ranges -/

/-- The half of `RangesOk` about the loaded samples (R13, R37). -/
def State.SamplesOk (s : State) : Prop :=
  s.vF16 = true → s.GeometryLegal ∧ ∀ i < s.width.toNat * s.height.toNat, s.f16At i ≤ 16383

/-- The half of `RangesOk` about the statistics (R48, R107). -/
def State.StatsOk (s : State) : Prop :=
  s.vStats = true → s.k.toNat ≤ 255 * (s.width.toNat * s.height.toNat) ∧
    s.count.toNat ≤ s.width.toNat * s.height.toNat ∧ s.count.toNat = ((List.range 256).map s.histAt).sum

theorem rangesOk_iff (s : State) : s.RangesOk ↔ s.SamplesOk ∧ s.StatsOk := by
  constructor
  · rintro ⟨hsamples, hk, hcount, hbins⟩
    exact ⟨hsamples, fun hv => ⟨hk hv, hcount hv, hbins hv⟩⟩
  · rintro ⟨hsamples, hstats⟩
    exact ⟨hsamples, fun hv => (hstats hv).1, fun hv => (hstats hv).2.1, fun hv => (hstats hv).2.2⟩

/-- With VALID at 0 nothing is claimed of the buffers. -/
theorem rangesOk_of_valid_zero {s : State} (h : s.valid = 0) : s.RangesOk := by
  rw [rangesOk_iff]
  constructor <;> intro hv <;> simp [State.vF16, State.vStats, h] at hv

/-- What the samples' half reads is in t as in s. -/
def State.KeepsSamples (s t : State) : Prop :=
  t.width = s.width ∧ t.height = s.height ∧ t.vF16 = s.vF16 ∧ s.KeepsBuffer t .f16

/-- What the statistics' half reads is in t as in s. -/
def State.KeepsStats (s t : State) : Prop :=
  t.width = s.width ∧ t.height = s.height ∧ t.k = s.k ∧ t.count = s.count ∧ t.vStats = s.vStats ∧ s.KeepsBuffer t .hist

theorem State.SamplesOk.of_keeps {s t : State} (h : s.SamplesOk) (hk : s.KeepsSamples t) : t.SamplesOk := by
  obtain ⟨hw, hh, hv, hb⟩ := hk
  intro ht
  rw [State.GeometryLegal, hw, hh]
  obtain ⟨hlegal, hle⟩ := h (hv ▸ ht)
  refine ⟨hlegal, fun i hi => ?_⟩
  have hbyte : ∀ j < 655360, t.byteAt (0x02000000 + j) = s.byteAt (0x02000000 + j) := fun j hj =>
    hb _ ((bufferAt_iff _ _).mpr ⟨Nat.le_add_right _ _, Nat.add_lt_add_left hj _⟩)
  have hi' : i < 327680 := hi.trans_le hlegal.2.2
  have hsame : t.f16At i = s.f16At i := by
    rw [State.f16At, State.f16At, Nat.add_assoc, hbyte _ (by omega), hbyte _ (by omega)]
  exact hsame ▸ hle i hi

theorem State.StatsOk.of_keeps {s t : State} (h : s.StatsOk) (hk : s.KeepsStats t) : t.StatsOk := by
  obtain ⟨hw, hh, hkk, hc, hv, hb⟩ := hk
  intro ht
  have hbyte : ∀ j < 1024, t.byteAt (0x00001000 + j) = s.byteAt (0x00001000 + j) := fun j hj =>
    hb _ ((bufferAt_iff _ _).mpr ⟨Nat.le_add_right _ _, Nat.add_lt_add_left hj _⟩)
  have hsame : (List.range 256).map t.histAt = (List.range 256).map s.histAt := by
    refine List.map_congr_left fun v hv256 => ?_
    have hlt : v < 256 := List.mem_range.mp hv256
    simp only [State.histAt, State.wordAt, Nat.add_assoc]
    rw [hbyte _ (by omega), hbyte _ (by omega), hbyte _ (by omega), hbyte _ (by omega)]
  rw [hw, hh, hkk, hc, hsame]
  exact h (hv ▸ ht)

/-- An update that keeps both halves keeps the ranges. -/
theorem State.RangesOk.of_keeps {s t : State} (h : s.RangesOk) (hsamples : s.KeepsSamples t) (hstats : s.KeepsStats t) :
    t.RangesOk := by
  rw [rangesOk_iff] at h ⊢
  exact ⟨h.1.of_keeps hsamples, h.2.of_keeps hstats⟩

/-- An update of registers other than WIDTH, HEIGHT, K and COUNT that leaves V_F16, V_STATS and the storage. -/
theorem State.RangesOk.of_same_storage {s t : State} (h : s.RangesOk) (hw : t.width = s.width)
    (hh : t.height = s.height) (hk : t.k = s.k) (hc : t.count = s.count) (hf : t.vF16 = s.vF16)
    (hs : t.vStats = s.vStats) (hb : t.byteAt = s.byteAt) : t.RangesOk :=
  h.of_keeps ⟨hw, hh, hf, fun a _ => congrFun hb a⟩ ⟨hw, hh, hk, hc, hs, fun a _ => congrFun hb a⟩

/-! ### The statistics of a committed HIST -/

/-- Every value below n counted once in a list of values below n: the counts add up to the length. -/
theorem sum_countP_range (n : Nat) (xs : List Nat) (h : ∀ x ∈ xs, x < n) :
    ((List.range n).map fun v => xs.countP (· == v)).sum = xs.length := by
  have hsum := Multiset.sum_count_eq_card (s := Finset.range n) (m := (xs : Multiset Nat)) (by simpa using h)
  simpa [Finset.sum, Multiset.range, List.count] using hsum

/-- COUNT is the sum of the bins (R107). -/
theorem histBinsOf_sum (counted : List Byte) : (histBinsOf counted).sum = counted.length := by
  have h := sum_countP_range 256 (counted.map (·.toNat)) (by simp; exact fun b _ => b.isLt)
  simpa [histBinsOf, List.countP_map, Function.comp_def] using h

theorem histBinsOf_getElem (counted : List Byte) (v : Nat) (hv : v < 256) :
    (histBinsOf counted)[v]? = some (counted.countP fun b => b.toNat == v) := by
  simp [histBinsOf, hv]

theorem histCounted_length_le (threshold : Nat) (diffs : List (Byte × Nat)) :
    (histCounted threshold diffs).length ≤ diffs.length := by
  simpa [histCounted] using List.length_filter_le _ diffs

/-- K is at most 255 for each pixel (R48). -/
theorem histK_le (diffs : List (Byte × Nat)) (h : ∀ e ∈ diffs, e.2 ≤ 255) : histK diffs ≤ 255 * diffs.length := by
  have := List.sum_le_card_nsmul (diffs.map (·.2)) 255 (List.forall_mem_map.mpr h)
  simpa [histK, Nat.mul_comm] using this

/-- A bin of HIST after its commit is the bin committed, modulo its 32 bits. -/
theorem histAt_commitHist (bins : List Nat) (k n : Nat) (s : State) (v x : Nat) (h : bins[v]? = some x) :
    (commitHist bins k n s).histAt v = x % 2 ^ 32 := by
  rw [State.histAt, wordAt_stored (commitHist bins k n s) s.mem 0x1000 v (bins.map (BitVec.ofNat 32)) (BitVec.ofNat 32 x)
    (by rw [List.flatMap_map]; rfl) (by rw [List.getElem?_map, h]; rfl), BitVec.toNat_ofNat]

/-- The bins of a committed HIST, when no more than 2^32 - 1 pixels are counted. -/
theorem map_histAt_commitHist (counted : List Byte) (k n : Nat) (s : State) (h : counted.length < 2 ^ 32) :
    (List.range 256).map (commitHist (histBinsOf counted) k n s).histAt = histBinsOf counted := by
  refine List.map_congr_left fun v hv => ?_
  rw [histAt_commitHist _ _ _ _ _ _ (histBinsOf_getElem counted v (List.mem_range.mp hv))]
  exact Nat.mod_eq_of_lt (List.countP_le_length.trans_lt h)

theorem statsOk_commitHist {s : State} {diffs : List (Byte × Nat)} (threshold : Nat) (hlegal : s.GeometryLegal)
    (hlen : diffs.length = s.pixels) (hle : ∀ e ∈ diffs, e.2 ≤ 255) :
    (commitHist (histBinsOf (histCounted threshold diffs)) (histK diffs) (histCounted threshold diffs).length
      s).StatsOk := by
  have hN : s.pixels ≤ 327680 := hlegal.2.2
  have hcount : (histCounted threshold diffs).length ≤ s.pixels := hlen ▸ histCounted_length_le threshold diffs
  have hK : histK diffs ≤ 255 * s.pixels := hlen ▸ histK_le diffs hle
  intro _
  rw [map_histAt_commitHist _ _ _ _ (by omega), histBinsOf_sum, commitHist_k, commitHist_count, BitVec.toNat_ofNat,
    BitVec.toNat_ofNat, Nat.mod_eq_of_lt (by omega), Nat.mod_eq_of_lt (by omega)]
  exact ⟨hK, hcount, rfl⟩

/-! ### The samples of a committed load -/

/-- A sample of F16 after a load is the sample committed. -/
theorem f16At_commitF16 (xs : List Half) (s : State) (i : Nat) (x : Half) (h : xs[i]? = some x) :
    (commitF16 xs s).f16At i = x.toNat := by
  have hbyte : ∀ j (hj : j < 2), (commitF16 xs s).byteAt (0x02000000 + 2 * i + j) = (halfBytes x)[j]'hj := by
    intro j hj
    rw [Nat.add_assoc]
    refine byteAt_write_option s.mem s.epoch 0x02000000 (2 * i + j) (xs.flatMap halfBytes) _ ?_
    rw [flatMap_getElem halfBytes 2 halfBytes_length xs i j hj, h]
    exact List.getElem?_eq_getElem hj
  have h0 := hbyte 0 (by omega)
  rw [Nat.add_zero] at h0
  rw [State.f16At, hbyte 1 (by omega), h0]
  exact congrArg BitVec.toNat (half_of_bytes x)

theorem samplesOk_commitF16 {s : State} {xs : List Half} (hlegal : s.GeometryLegal) (hlen : xs.length = s.pixels)
    (hle : ∀ x ∈ xs, x.toNat ≤ 16383) : (commitF16 xs s).SamplesOk := by
  refine fun _ => ⟨hlegal, fun i hi => ?_⟩
  have hi' : i < xs.length := hlen ▸ hi
  rw [f16At_commitF16 xs s i xs[i] (List.getElem?_eq_getElem hi')]
  exact hle _ (List.getElem_mem hi')

/-! ### What every commit keeps -/

theorem getLsbD_setBit_ne (w : Word) {i j : Nat} (b : Bool) (h : i ≠ j) : (setBit w i b).getLsbD j = w.getLsbD j := by
  by_cases hj : j < 32
  · cases b <;> simp [setBit, hj] <;> omega
  · simp [BitVec.getLsbD_of_ge _ _ (Nat.le_of_not_lt hj)]

theorem keepsStats_commitF16 {s : State} {xs : List Half} (hlegal : s.GeometryLegal) (hlen : xs.length = s.pixels) :
    s.KeepsStats (commitF16 xs s) := by
  refine ⟨rfl, rfl, rfl, rfl, getLsbD_setBit_ne _ _ (by decide), fun a ha => ?_⟩
  refine byteAt_store_other s.mem s.epoch a (by decide) ?_ ha
  rw [flatMap_length_const _ 2 halfBytes_length, hlen]
  exact Nat.mul_le_mul_left 2 hlegal.2.2

theorem keepsSamples_commitHist (counted : List Byte) (k n : Nat) (s : State) :
    s.KeepsSamples (commitHist (histBinsOf counted) k n s) := by
  refine ⟨rfl, rfl, getLsbD_setBit_ne _ _ (by decide), fun a ha => ?_⟩
  refine byteAt_store_other s.mem s.epoch a (by decide) ?_ ha
  rw [flatMap_length_const _ 4 fun x => wordElemBytes_length (BitVec.ofNat 32 x)]
  simp [histBinsOf, Buffer.bytes, Buffer.elemBytes, Buffer.capacity]

/-- A commit that leaves V_F16, V_STATS, F16 and HIST, as COMPRESS, TONE and REMAP do, keeps the ranges. -/
theorem State.RangesOk.of_other_commit {s t : State} (h : s.RangesOk) (hw : t.width = s.width) (hh : t.height = s.height)
    (hk : t.k = s.k) (hc : t.count = s.count) {i : Nat} (hv : t.valid = setBit s.valid i true) (hi0 : i ≠ 0) (hi2 : i ≠ 2)
    (hf16 : s.KeepsBuffer t .f16) (hhist : s.KeepsBuffer t .hist) : t.RangesOk :=
  h.of_keeps ⟨hw, hh, by rw [State.vF16, hv, getLsbD_setBit_ne _ _ hi0, State.vF16], hf16⟩
    ⟨hw, hh, hk, hc, by rw [State.vStats, hv, getLsbD_setBit_ne _ _ hi2, State.vStats], hhist⟩

/-- Every commit keeps the ranges: a load establishes the samples' half, HIST the statistics' half, and each leaves what it
does not establish. -/
theorem State.Commits.keeps_rangesOk {s t : State} (hc : s.Commits t) (h : s.RangesOk) : t.RangesOk := by
  obtain rfl | ⟨hlegal, ⟨xs, rfl, hlen, hle⟩ | ⟨px, lo, hi, flat, rfl, hlen⟩ | ⟨diffs, rfl, hlen, hle⟩ | ⟨r, rfl, hr⟩ |
    ⟨px, rfl, hlen⟩⟩ := hc
  · exact rangesOk_of_valid_zero rfl
  · rw [rangesOk_iff] at h ⊢
    exact ⟨samplesOk_commitF16 hlegal hlen hle, h.2.of_keeps (keepsStats_commitF16 hlegal hlen)⟩
  · have hother {b : Buffer} (hb : b ≠ .f8in) : s.KeepsBuffer (commitCompress px lo hi flat s) b := fun a ha =>
      byteAt_store_other s.mem s.epoch a hb (hlen.trans_le hlegal.2.2) ha
    exact h.of_other_commit rfl rfl rfl rfl rfl (by decide) (by decide) (hother (by decide)) (hother (by decide))
  · rw [rangesOk_iff] at h ⊢
    exact ⟨h.1.of_keeps (keepsSamples_commitHist _ _ _ s), statsOk_commitHist _ hlegal hlen hle⟩
  · have hother {b : Buffer} (hb : b ∉ [Buffer.mhist, .pdf, .pdfw, .cdfw, .lut]) : s.KeepsBuffer (commitTone r s) b :=
      fun a ha => byteAt_toneStore_other hr s.mem s.epoch a hb ha
    exact h.of_other_commit rfl rfl rfl rfl rfl (by decide) (by decide) (hother (by decide)) (hother (by decide))
  · have hother {b : Buffer} (hb : b ≠ .f8out) : s.KeepsBuffer (commitRemap px s) b := fun a ha =>
      byteAt_store_other s.mem s.epoch a hb (hlen.trans_le hlegal.2.2) ha
    exact h.of_other_commit rfl rfl rfl rfl rfl (by decide) (by decide) (hother (by decide)) (hother (by decide))

/-! ### What a host access keeps -/

theorem rangesOk_writeRegIdle {s : State} (h : s.RangesOk) (v : Word) (r : RegName) : (writeRegIdle s v r).RangesOk := by
  cases r with
  | width => exact rangesOk_of_valid_zero rfl
  | height => exact rangesOk_of_valid_zero rfl
  | valid =>
    exact h.of_same_storage rfl rfl rfl rfl (getLsbD_setBit_ne _ _ (by decide)) (getLsbD_setBit_ne _ _ (by decide)) rfl
  | _ => exact h.of_same_storage rfl rfl rfl rfl rfl rfl rfl

theorem rangesOk_writeReg {s : State} (h : s.RangesOk) (a : Nat) (v : Word) : (writeReg s a v).RangesOk := by
  rw [writeReg]
  split
  · rename_i r _
    split
    · rw [writeRegBusy]
      split
      · exact h.of_same_storage rfl rfl rfl rfl rfl rfl rfl
      · split
        · exact h.of_same_storage rfl rfl rfl rfl rfl rfl rfl
        · exact h
    · exact rangesOk_writeRegIdle h v r
  · exact h

theorem rangesOk_writeWindow {s : State} (h : s.RangesOk) (size : AccessSize) (a : Nat) (v : Word) :
    (writeWindow Config.params s size a v).RangesOk := by
  rw [writeWindow]
  split
  · split
    · exact h.of_same_storage rfl rfl rfl rfl rfl rfl rfl
    · exact h
  · have hother {b : Buffer} (hb : b.hostWritable = false) : s.KeepsBuffer
        { s with mem := storeHostBytes Config.params ((wordBytes v).take size.bytes) a s.mem } b := fun x hx => by
      simp only [State.byteAt, Memory.byteAt, written_storeHostBytes_other hb _ _ _ _ hx]
    exact h.of_keeps ⟨rfl, rfl, rfl, hother rfl⟩ ⟨rfl, rfl, rfl, rfl, rfl, hother rfl⟩

theorem rangesOk_hostAccess {s t : State} {a : Access} (h : s.RangesOk)
    (hacc : hostAccess Config.params s a = .next t) : t.RangesOk := by
  rcases hostAccess_cases hacc with ⟨size, off, -, -, rfl⟩ | ⟨size, off, v, -, -, rfl⟩ | ⟨d, rfl⟩
  · rw [hostRead]
    split <;> exact h.of_same_storage rfl rfl rfl rfl rfl rfl rfl
  · rw [hostWrite]
    split
    · exact (rangesOk_writeReg h off v).of_same_storage rfl rfl rfl rfl rfl rfl rfl
    · exact (rangesOk_writeWindow h size off v).of_same_storage rfl rfl rfl rfl rfl rfl rfl
  · exact h.of_same_storage rfl rfl rfl rfl rfl rfl rfl

theorem rangesOk_engineTurn {s t : State} (h : s.RangesOk) (hturn : engineTurn s = .next t) : t.RangesOk := by
  rcases engineTurn_cases hturn with ⟨-, i, -, hexec⟩ | ⟨-, -, rfl⟩ | ⟨-, rfl⟩
  · exact exec_keeps State.RangesOk (fun _ _ hx hc => hc.keeps_rangesOk hx)
      (fun _ hx => hx.of_same_storage rfl rfl rfl rfl rfl rfl rfl)
      (fun _ _ hx => hx.of_same_storage rfl rfl rfl rfl rfl rfl rfl) h hexec
  · exact h.of_same_storage rfl rfl rfl rfl rfl rfl rfl
  · exact h

/-- Settles O51: every step keeps the ranges. A turn of the engine keeps them commit by commit, a host access reaches
neither F16 nor HIST, and a write of WIDTH or HEIGHT and the reset clear VALID. -/
theorem stepKeepsRangesOk : Obligations.StepKeepsRangesOk := by
  intro s t h hstep
  have hmoves : State.RangesOk { s with moves := s.moves.tail } := h.of_same_storage rfl rfl rfl rfl rfl rfl rfl
  rcases step_cases hstep with ⟨hturn, -⟩ | ⟨a, -, hacc⟩ | ⟨-, rfl⟩
  · exact rangesOk_engineTurn hmoves hturn
  · exact rangesOk_hostAccess hmoves hacc
  · exact rangesOk_of_valid_zero rfl

/-! ### An issued command -/

theorem State.Commits.status_eq {s t : State} (h : s.Commits t) : t.status = s.status := by
  obtain rfl | ⟨-, ⟨_, rfl, -⟩ | ⟨_, _, _, _, rfl, -⟩ | ⟨_, rfl, -⟩ | ⟨_, rfl, -⟩ | ⟨_, rfl, -⟩⟩ := h <;> rfl

@[simp] theorem hostViol_complete (s : State) : s.complete.hostViol = s.hostViol := by
  simp [State.hostViol, statusCompleted]

@[simp] theorem hostViol_raise (s : State) (e : StageError) : (s.raise e).hostViol = s.hostViol := by
  cases e with | mk c _ _ => cases c <;> simp [State.hostViol, statusFailed, ErrCode.number]

@[simp] theorem hostViol_accept (s : State) (w : Word) : (s.accept w).hostViol = s.hostViol := by
  simp [State.hostViol, statusAccepted]

/-- A command ends idle, and records no dropped write (R142, R190). -/
theorem exec_ends_idle (i : Instr) (s : State) :
    ∃ t, exec i s = .next t ∧ t.hostViol = s.hostViol ∧ t.busy = false := by
  refine ⟨_, exec_eq_runCommand i s, ?_, ?_⟩
  · exact exec_keeps (fun x => x.hostViol = s.hostViol)
      (fun _ _ hx hc => (congrArg (·.getLsbD 3) hc.status_eq).trans hx)
      (fun x hx => (hostViol_complete x).trans hx) (fun x e hx => (hostViol_raise x e).trans hx)
      rfl (exec_eq_runCommand i s)
  · rcases runCommand_cases (stagesOf i) s with ⟨x, hx⟩ | ⟨x, e, hx⟩
    · rw [hx]; exact busy_complete x
    · rw [hx]; exact busy_raise x e

/-- The engine step ends idle whatever word stands in CMD, an illegal one included (R142, R159). -/
theorem engineStep_ends_idle (s : State) :
    ∃ t, engineStep s = .next t ∧ t.hostViol = s.hostViol ∧ t.busy = false := by
  rw [engineStep]
  split
  · exact exec_ends_idle _ s
  · exact ⟨_, rfl, hostViol_raise s _, busy_raise s _⟩

/-- The host's write of w to CMD of the idle block is accepted (R141). -/
theorem step_cmd_write_idle {s : State} (w : Word) (rest : List Move) (hidle : s.busy = false) :
    step { s with moves := .access (.write .word 0x008 w) :: rest } =
      .next (({ s with moves := rest } : State).accept w |>.respondOkay none) := by
  have hb : State.busy { s with moves := rest } = false := hidle
  have hreg : regAt 0x008 = some .cmd := regAt_offset .cmd
  simp [step, advance, performMove, hostAccess, offsetDecoded, accessOkay, AccessSize.bytes, hostWrite, writeReg, hreg,
    hb, writeRegIdle]

/-- A run of n + 1 steps is a step and a run of n. -/
theorem run_succ_of_step {M : Host.Core} {n : Nat} {s t : M.State} (h : M.step s = .next t) :
    M.run (n + 1) s = M.run n t := by
  rw [Host.Core.run, h]

/-- A step to t and a run of n steps from t make a run of n + 1 steps of the block. -/
theorem runsTo_succ {n : Nat} {s t u : State} (hstep : step s = .next t) (hrun : RunsTo n t u) : RunsTo (n + 1) s u :=
  (run_succ_of_step (M := core) (s := s) (t := t) hstep).trans hrun

/-- With a command pending and no move to come the engine has the turn (R190). -/
theorem step_of_pending {s : State} (hmoves : s.moves = []) (hbusy : s.busy = true) : step s = engineStep s := by
  rw [step, advance, hmoves]
  exact if_pos hbusy

/-- The step after an acceptance that no move of the host follows completes the command, with no write dropped (R190). -/
theorem step_accepted_ends_idle {s : State} (w : Word) (hmoves : s.moves = []) :
    ∃ t, step ((s.accept w).respondOkay none) = .next t ∧ t.hostViol = s.hostViol ∧ t.busy = false := by
  obtain ⟨t, hengine, hviol, hidle⟩ := engineStep_ends_idle ((s.accept w).respondOkay none)
  have hstep : step ((s.accept w).respondOkay none) = engineStep ((s.accept w).respondOkay none) :=
    step_of_pending hmoves (busy_accept s w)
  exact ⟨t, hstep.trans hengine, hviol.trans (hostViol_accept s w), hidle⟩

/-- Settles O10: the first step accepts the word, the second is the engine's, which ends idle without a violation. -/
theorem issuedCommandRunsSafely : Obligations.IssuedCommandRunsSafely := by
  intro s w hidle hviol
  obtain ⟨t, hsecond, htviol, htidle⟩ := step_accepted_ends_idle (s := { s with moves := [] }) w rfl
  exact ⟨t, runsTo_succ (step_cmd_write_idle w [] hidle) (runsTo_succ hsecond rfl), htviol.trans hviol, htidle⟩

end Sys2Proof.Machine

/-! ## Settling O52 and O53: rounding to a nearest binary64 value, by the midpoints between neighbouring encodings -/

namespace Sys2Proof.Machine

/-! ### The value of a magnitude encoding, and its place among the encodings -/

/-- The count of least subnormals that a magnitude encoding stands for, also past infinity, where the scale goes on. -/
def magUnits (m : Nat) : Nat :=
  if m / 0x10000000000000 = 0 then m
  else (0x10000000000000 + m % 0x10000000000000) <<< (m / 0x10000000000000 - 1)

theorem f64Units_eq_magUnits (x : F64) : f64Units x = magUnits (f64Mag x) := rfl

theorem f64Units_make {neg : Bool} {m : Nat} (h : m ≤ f64Inf) : f64Units (f64Make neg m) = magUnits m := by
  rw [f64Units_eq_magUnits, f64Mag_make neg m h]

/-- The encoding e·2^52 + k stands for k·2^e: k counts from 0 in the subnormals, e = 0, and else has 53 bits, or has just
carried to 2^53 (R10, R76). -/
theorem magUnits_encode (e k : Nat) (hlow : e = 0 ∨ 0x10000000000000 ≤ k) (hhigh : k ≤ 0x20000000000000) :
    magUnits (e * 0x10000000000000 + k) = k * 2 ^ e := by
  obtain ⟨rfl, hk⟩ | hk | rfl :
      (e = 0 ∧ k < 0x10000000000000) ∨ (0x10000000000000 ≤ k ∧ k < 0x20000000000000) ∨ k = 0x20000000000000 := by omega
  · rw [magUnits, if_pos (by omega)]; simp
  · rw [magUnits, if_neg (by omega), Nat.shiftLeft_eq]
    congr 2 <;> omega
  · rw [magUnits, if_neg (by omega), Nat.shiftLeft_eq,
      show (e * 0x10000000000000 + 0x20000000000000) / 0x10000000000000 - 1 = e + 1 by omega,
      show 0x10000000000000 + (e * 0x10000000000000 + 0x20000000000000) % 0x10000000000000 = 0x10000000000000 by omega,
      Nat.pow_succ]
    ring

/-- Every encoding is e·2^52 + k with k in the range of `magUnits_encode`, and so is the next one. -/
theorem exists_encode (m : Nat) :
    ∃ e k, m = e * 0x10000000000000 + k ∧ (e = 0 ∨ 0x10000000000000 ≤ k) ∧ k < 0x20000000000000 := by
  by_cases h : m < 0x10000000000000
  · exact ⟨0, m, by omega, .inl rfl, by omega⟩
  · exact ⟨m / 0x10000000000000 - 1, 0x10000000000000 + m % 0x10000000000000, by omega, .inr (by omega), by omega⟩

theorem magUnits_lt_succ (m : Nat) : magUnits m < magUnits (m + 1) := by
  obtain ⟨e, k, rfl, hlow, hhigh⟩ := exists_encode m
  rw [magUnits_encode e k hlow (by omega), Nat.add_assoc, magUnits_encode e (k + 1) (by omega) (by omega)]
  exact Nat.mul_lt_mul_of_pos_right (Nat.lt_succ_self k) (Nat.two_pow_pos e)

/-- A greater encoding stands for a greater value. -/
theorem magUnits_strictMono : StrictMono magUnits := strictMono_nat_of_lt_succ magUnits_lt_succ

/-! ### Rounding to a nearest encoding -/

/-- The encoding r is a rounding of num/den: num/den lies above the midpoint of r with every lower encoding and below that
with every higher one, and on a midpoint only if r is even. -/
def IsRounding (r num den : Nat) : Prop :=
  (∀ m < r, (magUnits m + magUnits r) * den ≤ 2 * num ∧
    ((magUnits m + magUnits r) * den = 2 * num → r % 2 = 0)) ∧
  ∀ m, r < m → 2 * num ≤ (magUnits r + magUnits m) * den ∧
    (2 * num = (magUnits r + magUnits m) * den → r % 2 = 0)

/-- It suffices to compare with the midpoints of the two neighbours, as values rise with encodings. -/
theorem isRounding_of_neighbours {r num den : Nat}
    (hbelow : ∀ m, r = m + 1 → (magUnits m + magUnits r) * den < 2 * num ∨
      (magUnits m + magUnits r) * den = 2 * num ∧ r % 2 = 0)
    (habove : 2 * num < (magUnits r + magUnits (r + 1)) * den ∨
      2 * num = (magUnits r + magUnits (r + 1)) * den ∧ r % 2 = 0) : IsRounding r num den := by
  have hlow : ∀ m < r, (magUnits m + magUnits r) * den < 2 * num ∨
      (magUnits m + magUnits r) * den = 2 * num ∧ r % 2 = 0 := by
    intro m hm
    have hle : (magUnits m + magUnits r) * den ≤ (magUnits (r - 1) + magUnits r) * den :=
      Nat.mul_le_mul_right den (Nat.add_le_add_right (magUnits_strictMono.monotone (by omega)) _)
    have := hbelow (r - 1) (by omega)
    omega
  have hhigh : ∀ m, r < m → 2 * num < (magUnits r + magUnits m) * den ∨
      2 * num = (magUnits r + magUnits m) * den ∧ r % 2 = 0 := by
    intro m hm
    have hle : (magUnits r + magUnits (r + 1)) * den ≤ (magUnits r + magUnits m) * den :=
      Nat.mul_le_mul_right den (Nat.add_le_add_left (magUnits_strictMono.monotone hm) _)
    omega
  exact ⟨fun m hm => by have := hlow m hm; omega, fun m hm => by have := hhigh m hm; omega⟩

/-- The encoding `roundMag` computes, before the overflow to infinity. -/
def roundFinite (num den : Nat) : Nat :=
  let e := binLog (num / den) + 1 - 53
  let d := den <<< e
  e * 0x10000000000000 + tiesToEven (num / d) (num % d) d

theorem roundMag_eq_min (num den : Nat) : roundMag num den = min (roundFinite num den) f64Inf := rfl

/-- Shifted by the exponent that the binary logarithm gives, a quotient is below 2^53, and has 53 bits unless it is
unshifted. -/
theorem quotient_significand (q : Nat) :
    (binLog q + 1 - 53 = 0 ∨ 0x10000000000000 ≤ q / 2 ^ (binLog q + 1 - 53)) ∧
      q / 2 ^ (binLog q + 1 - 53) < 0x20000000000000 := by
  rw [binLog_eq_log2]
  have hlt : q < 2 ^ (Nat.log2 q + 1) := Nat.lt_log2_self
  by_cases hsmall : Nat.log2 q ≤ 52
  · rw [show Nat.log2 q + 1 - 53 = 0 by omega]
    have : 2 ^ (Nat.log2 q + 1) ≤ 2 ^ 53 := Nat.pow_le_pow_right (by decide) (by omega)
    exact ⟨.inl rfl, by simpa using hlt.trans_le this⟩
  · obtain ⟨e, he⟩ : ∃ e, Nat.log2 q = 52 + e := ⟨Nat.log2 q - 52, by omega⟩
    have hq : q ≠ 0 := by rintro rfl; exact hsmall (by decide)
    have hge : 2 ^ Nat.log2 q ≤ q := Nat.log2_self_le hq
    rw [he, Nat.pow_add] at hge
    rw [he, show 52 + e + 1 = 53 + e by omega, Nat.pow_add] at hlt
    rw [he, show 52 + e + 1 - 53 = e by omega]
    exact ⟨.inr ((Nat.le_div_iff_mul_le (Nat.two_pow_pos e)).mpr hge),
      (Nat.div_lt_iff_lt_mul (Nat.two_pow_pos e)).mpr hlt⟩

/-- A rounding down or up of num/den = (k + r/d)·2^e, with a 53-bit or subnormal k, is a rounding to a nearest encoding. -/
theorem isRounding_tiesToEven {num den e : Nat} (hden : 0 < den)
    (hlow : e = 0 ∨ 0x10000000000000 ≤ num / (den * 2 ^ e)) (hhigh : num / (den * 2 ^ e) < 0x20000000000000) :
    IsRounding (e * 0x10000000000000 + tiesToEven (num / (den * 2 ^ e)) (num % (den * 2 ^ e)) (den * 2 ^ e)) num den := by
  have hd : 0 < den * 2 ^ e := Nat.mul_pos hden (Nat.two_pow_pos e)
  have hnum : den * 2 ^ e * (num / (den * 2 ^ e)) + num % (den * 2 ^ e) = num := Nat.div_add_mod _ _
  have hr : num % (den * 2 ^ e) < den * 2 ^ e := Nat.mod_lt _ hd
  generalize num / (den * 2 ^ e) = k at *
  generalize num % (den * 2 ^ e) = r at *
  have hk : magUnits (e * 0x10000000000000 + k) * den = den * 2 ^ e * k := by
    rw [magUnits_encode e k hlow (by omega)]; ring
  have hk1 : magUnits (e * 0x10000000000000 + (k + 1)) * den = den * 2 ^ e * k + den * 2 ^ e := by
    rw [magUnits_encode e (k + 1) (by omega) (by omega)]; ring
  generalize den * 2 ^ e = d at *
  have hdown (h : 2 * r < d ∨ 2 * r = d ∧ k % 2 = 0) : IsRounding (e * 0x10000000000000 + k) num den := by
    refine isRounding_of_neighbours (fun m hm => .inl ?_) ?_
    · have : magUnits m * den < magUnits (e * 0x10000000000000 + k) * den :=
        Nat.mul_lt_mul_of_pos_right (magUnits_strictMono (by omega)) hden
      rw [Nat.add_mul]; omega
    · rw [Nat.add_assoc _ k 1, Nat.add_mul]; omega
  have hup (h : d < 2 * r ∨ 2 * r = d ∧ k % 2 = 1) : IsRounding (e * 0x10000000000000 + (k + 1)) num den := by
    refine isRounding_of_neighbours (fun m hm => ?_) (.inl ?_)
    · obtain rfl : m = e * 0x10000000000000 + k := by omega
      rw [Nat.add_mul]; omega
    · have : magUnits (e * 0x10000000000000 + (k + 1)) * den < magUnits (e * 0x10000000000000 + (k + 1) + 1) * den :=
        Nat.mul_lt_mul_of_pos_right (magUnits_lt_succ _) hden
      rw [Nat.add_mul]; omega
  rw [tiesToEven]
  split
  · rename_i h; exact hdown (.inl h)
  · split
    · rename_i h; exact hup (.inl h)
    · rcases Nat.mod_two_eq_zero_or_one k with hpar | hpar
      · rw [hpar]; exact hdown (.inr ⟨by omega, hpar⟩)
      · rw [hpar]; exact hup (.inr ⟨by omega, hpar⟩)

theorem roundFinite_isRounding (num : Nat) {den : Nat} (hden : 0 < den) : IsRounding (roundFinite num den) num den := by
  obtain ⟨hlow, hhigh⟩ := quotient_significand (num / den)
  rw [Nat.div_div_eq_div_mul] at hlow hhigh
  simp only [roundFinite, Nat.shiftLeft_eq]
  exact isRounding_tiesToEven hden hlow hhigh

/-- A rounding to a nearest encoding is at least as close as any other encoding, and a tie has gone to the even one. -/
theorem IsRounding.nearest {r num den : Nat} (hden : 0 < den) (h : IsRounding r num den) (m : Nat) :
    ((magUnits r : Int) * den - num).natAbs ≤ ((magUnits m : Int) * den - num).natAbs ∧
      (m ≠ r → ((magUnits r : Int) * den - num).natAbs = ((magUnits m : Int) * den - num).natAbs → r % 2 = 0) := by
  obtain ⟨hbelow, habove⟩ := h
  have hmono {a b : Nat} (hab : a < b) : magUnits a * den < magUnits b * den :=
    Nat.mul_lt_mul_of_pos_right (magUnits_strictMono hab) hden
  simp only [Nat.add_mul] at hbelow habove
  simp only [← Nat.cast_mul]
  rcases lt_trichotomy m r with hm | rfl | hm
  · have hlt := hmono hm
    obtain ⟨hmid, htie⟩ := hbelow m hm
    generalize magUnits r * den = x, magUnits m * den = y at *
    omega
  · exact ⟨le_rfl, fun hne => absurd rfl hne⟩
  · have hlt := hmono hm
    obtain ⟨hmid, htie⟩ := habove m hm
    generalize magUnits r * den = x, magUnits m * den = y at *
    omega

/-- A rounding overflows exactly from the midpoint of the greatest finite value and 2^1024 on: on the midpoint it goes to
infinity, the encoding of the greatest finite value being odd. -/
theorem roundMag_eq_inf_iff (num : Nat) {den : Nat} (hden : 0 < den) :
    roundMag num den = f64Inf ↔ den * (magUnits (f64Inf - 1) + magUnits f64Inf) ≤ 2 * num := by
  obtain ⟨hbelow, habove⟩ := roundFinite_isRounding num hden
  have hodd : (f64Inf - 1) % 2 = 1 := by decide
  have hpred : f64Inf - 1 < f64Inf := by decide
  rw [roundMag_eq_min, Nat.mul_comm den]
  generalize roundFinite num den = r at *
  generalize f64Inf = inf at *
  constructor
  · intro hmin
    have hle : inf ≤ r := by omega
    calc (magUnits (inf - 1) + magUnits inf) * den
        ≤ (magUnits (inf - 1) + magUnits r) * den :=
          Nat.mul_le_mul_right den (Nat.add_le_add_left (magUnits_strictMono.monotone hle) _)
      _ ≤ 2 * num := (hbelow _ (by omega)).1
  · intro hmid
    by_contra hmin
    have hlt : r < inf := by omega
    obtain ⟨hup, htie⟩ := habove inf hlt
    have hmono : magUnits r * den ≤ magUnits (inf - 1) * den :=
      Nat.mul_le_mul_right den (magUnits_strictMono.monotone (by omega))
    rw [Nat.add_mul] at hmid hup htie
    have heven : r % 2 = 0 := htie (by omega)
    have hne : r < inf - 1 := by omega
    have : magUnits r * den < magUnits (inf - 1) * den :=
      Nat.mul_lt_mul_of_pos_right (magUnits_strictMono hne) hden
    omega

/-- A rounding that does not overflow is a rounding to a nearest encoding. -/
theorem roundMag_isRounding {num den : Nat} (hden : 0 < den) (hfin : roundMag num den < f64Inf) :
    IsRounding (roundMag num den) num den := by
  have heq : roundMag num den = roundFinite num den := by rw [roundMag_eq_min] at hfin ⊢; omega
  exact heq ▸ roundFinite_isRounding num hden

@[simp] theorem roundMag_zero (den : Nat) : roundMag 0 den = 0 := by
  simp [roundMag, tiesToEven]

/-! ### The operations on finite values -/

theorem isfinite_iff (x : F64) : isfinite x = true ↔ f64Mag x < f64Inf := by simp [isfinite]

theorem isnan_of_isfinite {x : F64} (h : isfinite x = true) : isnan x = false := by
  rw [isfinite_iff] at h; simp [isnan, h.le]

theorem isinf_of_isfinite {x : F64} (h : isfinite x = true) : isinf x = false := by
  rw [isfinite_iff] at h; simp [isinf, h.ne]

theorem one_shiftLeft_eq_two_pow (n : Nat) : 1 <<< n = 2 ^ n := by rw [Nat.shiftLeft_eq, Nat.one_mul]

theorem shiftLeft_eq_mul_one_shiftLeft (n k : Nat) : n <<< k = n * 1 <<< k := by
  rw [one_shiftLeft_eq_two_pow, Nat.shiftLeft_eq]

theorem shiftLeft_1074 (n : Nat) : n <<< 1074 = n * f64One := shiftLeft_eq_mul_one_shiftLeft n 1074

theorem fmul_of_finite {a b : F64} (ha : isfinite a = true) (hb : isfinite b = true) :
    fmul a b = f64Round (f64Sign a != f64Sign b) (f64Units a * f64Units b) f64One := by
  simp [fmul, isnan_of_isfinite ha, isnan_of_isfinite hb, isinf_of_isfinite ha, isinf_of_isfinite hb]

theorem fdiv_of_finite {a b : F64} (ha : isfinite a = true) (hb : isfinite b = true) (hb0 : f64Mag b ≠ 0) :
    fdiv a b = f64Round (f64Sign a != f64Sign b) (f64Units a * f64One) (f64Units b) := by
  simp [fdiv, isnan_of_isfinite ha, isnan_of_isfinite hb, isinf_of_isfinite ha, isinf_of_isfinite hb, hb0,
    shiftLeft_1074]

theorem fadd_of_finite {a b : F64} (ha : isfinite a = true) (hb : isfinite b = true) :
    fadd a b = if f64Int a + f64Int b = 0 then f64Make (f64Sign a && f64Sign b) 0
      else f64Round (decide (f64Int a + f64Int b < 0)) (f64Int a + f64Int b).natAbs 1 := by
  simp [fadd, isnan_of_isfinite ha, isnan_of_isfinite hb, isinf_of_isfinite ha, isinf_of_isfinite hb]

/-- The sum of finite values is their exact sum rounded once; the sign of a zero sum is IEEE 754's. -/
theorem fadd_rounds {a b : F64} (ha : isfinite a = true) (hb : isfinite b = true) :
    f64Mag (fadd a b) = roundMag (f64Int a + f64Int b).natAbs 1 ∧
      f64Sign (fadd a b) =
        (if f64Int a + f64Int b = 0 then f64Sign a && f64Sign b else decide (f64Int a + f64Int b < 0)) := by
  rw [fadd_of_finite ha hb]
  split
  · rename_i hzero
    rw [hzero, f64Mag_make _ 0 (Nat.zero_le _), f64Sign_make _ 0 (Nat.zero_le _)]
    exact ⟨(roundMag_zero 1).symm, rfl⟩
  · exact f64Round_spec _ _ _

/-- The negation flips bit 63 and leaves the magnitude. -/
theorem f64Sign_fneg (x : F64) : f64Sign (fneg x) = !f64Sign x := by
  simp [f64Sign, fneg]

theorem f64Mag_fneg (x : F64) : f64Mag (fneg x) = f64Mag x := by
  have h := Nat.xor_mod_two_pow (a := x.toNat) (b := 0x8000000000000000) (n := 63)
  simpa [f64Mag, fneg] using h

theorem f64Int_fneg (x : F64) : f64Int (fneg x) = -f64Int x := by
  rw [f64Int, f64Int, f64Sign_fneg, f64Units_eq_magUnits, f64Units_eq_magUnits, f64Mag_fneg]
  cases f64Sign x <;> simp

theorem fsub_rounds {a b : F64} (ha : isfinite a = true) (hb : isfinite b = true) :
    f64Mag (fsub a b) = roundMag (f64Int a - f64Int b).natAbs 1 ∧
      f64Sign (fsub a b) =
        (if f64Int a - f64Int b = 0 then f64Sign a && !f64Sign b else decide (f64Int a - f64Int b < 0)) := by
  have hneg : isfinite (fneg b) = true := by rw [isfinite_iff, f64Mag_fneg]; exact (isfinite_iff b).mp hb
  have h := fadd_rounds ha hneg
  rwa [f64Int_fneg, f64Sign_fneg, ← Int.sub_eq_add_neg] at h

/-- Settles O52: the shared rounding gives a nearest encoding, by the midpoints of its neighbours, and each operation is one
such rounding of its exact result. -/
theorem roundingGivesANearestValue : Obligations.RoundingGivesANearestValue := by
  refine ⟨fun num den m hden hfin hm => ?_, fun num den hden => ⟨roundMag_le num den, ?_⟩, fun a b ha hb =>
    ⟨?_, fun hb0 => ?_, fadd_rounds ha hb, fsub_rounds ha hb⟩⟩
  · rw [f64Units_make hfin.le, f64Units_make hm.le]
    exact (roundMag_isRounding hden hfin).nearest hden m
  · rw [f64Units_make (Nat.sub_le _ _), f64Units_make le_rfl]
    exact roundMag_eq_inf_iff num hden
  · rw [fmul_of_finite ha hb]; exact f64Round_spec _ _ _
  · rw [fdiv_of_finite ha hb hb0]; exact f64Round_spec _ _ _

/-! ### The square root -/

/-- Shifted by the even exponent that `sqrtMag` takes, a large number has 105 or 106 bits, so that its root has 53. -/
theorem radicand_range {x : Nat} (h : 2 ^ 104 ≤ x) :
    2 ^ 104 ≤ x / 2 ^ (2 * ((binLog x + 2) / 2 - 53)) ∧ x / 2 ^ (2 * ((binLog x + 2) / 2 - 53)) < 2 ^ 106 := by
  have hx : x ≠ 0 := by rintro rfl; simp at h
  have hlog : 104 ≤ Nat.log2 x := (Nat.le_log2 hx).mpr h
  have hge : 2 ^ Nat.log2 x ≤ x := Nat.log2_self_le hx
  have hlt : x < 2 ^ (Nat.log2 x + 1) := Nat.lt_log2_self
  rw [binLog_eq_log2, Nat.le_div_iff_mul_le (Nat.two_pow_pos _), Nat.div_lt_iff_lt_mul (Nat.two_pow_pos _),
    ← Nat.pow_add, ← Nat.pow_add]
  exact ⟨(Nat.pow_le_pow_right (by decide) (by omega)).trans hge,
    hlt.trans_le (Nat.pow_le_pow_right (by decide) (by omega))⟩

/-- The root of a number of 105 or 106 bits has 53. -/
theorem isqrt_significand {y : Nat} (hlow : 2 ^ 104 ≤ y) (hhigh : y < 2 ^ 106) :
    (isqrt y * isqrt y ≤ y ∧ y < (isqrt y + 1) * (isqrt y + 1)) ∧
      0x10000000000000 ≤ isqrt y ∧ isqrt y < 0x20000000000000 := by
  obtain ⟨hle, hlt⟩ := isqrt_spec y (hhigh.trans (by decide))
  refine ⟨⟨hle, hlt⟩, ?_, ?_⟩
  · exact Nat.le_of_lt_succ (Nat.mul_self_lt_mul_self_iff.mp (lt_of_le_of_lt hlow hlt))
  · exact Nat.mul_self_lt_mul_self_iff.mp (hle.trans_lt hhigh)

/-- The root of x lies between the midpoints of the encoding r with its two neighbours. -/
def IsRootRounding (r x : Nat) : Prop :=
  (magUnits (r - 1) + magUnits r) ^ 2 ≤ 4 * x ∧ 4 * x ≤ (magUnits r + magUnits (r + 1)) ^ 2

/-- Between two neighbouring encodings m and m + 1, the lower is a rounding of every root up to their midpoint, and the
upper of every root from it on. -/
theorem isRootRounding_of_between {m x : Nat} (hle : magUnits m ^ 2 ≤ x) (hlt : x < magUnits (m + 1) ^ 2) :
    (4 * x ≤ (magUnits m + magUnits (m + 1)) ^ 2 → IsRootRounding m x) ∧
      ((magUnits m + magUnits (m + 1)) ^ 2 ≤ 4 * x → IsRootRounding (m + 1) x) := by
  constructor
  · refine fun hmid => ⟨?_, hmid⟩
    calc (magUnits (m - 1) + magUnits m) ^ 2
        ≤ (magUnits m + magUnits m) ^ 2 :=
          Nat.pow_le_pow_left (Nat.add_le_add_right (magUnits_strictMono.monotone (Nat.sub_le m 1)) _) 2
      _ = 4 * magUnits m ^ 2 := by ring
      _ ≤ 4 * x := Nat.mul_le_mul_left 4 hle
  · refine fun hmid => ⟨hmid, ?_⟩
    calc 4 * x ≤ 4 * magUnits (m + 1) ^ 2 := Nat.mul_le_mul_left 4 hlt.le
      _ = (magUnits (m + 1) + magUnits (m + 1)) ^ 2 := by ring
      _ ≤ (magUnits (m + 1) + magUnits (m + 1 + 1)) ^ 2 :=
          Nat.pow_le_pow_left (Nat.add_le_add_left (magUnits_lt_succ _).le _) 2

/-- The comparison of `sqrtMag`: between the encodings of k·2^e and (k + 1)·2^e the squared midpoint is
(2k + 1)²·2^(2e) / 4. -/
theorem isRootRounding_select {x e k : Nat} (hlow : 0x10000000000000 ≤ k) (hhigh : k < 0x20000000000000)
    (hle : k * k * 2 ^ (2 * e) ≤ x) (hlt : x < (k + 1) * (k + 1) * 2 ^ (2 * e)) :
    IsRootRounding (e * 0x10000000000000 +
      (if 4 * x < (2 * k + 1) * (2 * k + 1) <<< (2 * e) then k
        else if (2 * k + 1) * (2 * k + 1) <<< (2 * e) < 4 * x then k + 1 else k + k % 2)) x := by
  have hk : magUnits (e * 0x10000000000000 + k) = k * 2 ^ e := magUnits_encode e k (.inr hlow) (by omega)
  have hk1 : magUnits (e * 0x10000000000000 + k + 1) = (k + 1) * 2 ^ e := by
    rw [Nat.add_assoc]; exact magUnits_encode e (k + 1) (.inr (by omega)) (by omega)
  have hmid : (2 * k + 1) * (2 * k + 1) <<< (2 * e) =
      (magUnits (e * 0x10000000000000 + k) + magUnits (e * 0x10000000000000 + k + 1)) ^ 2 := by
    rw [Nat.shiftLeft_eq, hk, hk1]; ring
  obtain ⟨hdown, hup⟩ := isRootRounding_of_between (m := e * 0x10000000000000 + k) (x := x)
    (by rw [hk]; convert hle using 1; ring) (by rw [hk1]; convert hlt using 1; ring)
  rw [hmid]
  split
  · exact hdown (by omega)
  · split
    · rw [← Nat.add_assoc]; exact hup (by omega)
    · rcases Nat.mod_two_eq_zero_or_one k with hpar | hpar
      · rw [hpar]; exact hdown (by omega)
      · rw [hpar, ← Nat.add_assoc]; exact hup (by omega)

theorem two_pow_le_f64One {n : Nat} (h : n ≤ 1074) : 2 ^ n ≤ f64One := by
  rwa [f64One, one_shiftLeft_eq_two_pow, Nat.pow_le_pow_iff_right (by decide)]

/-- `sqrtMag` rounds the root of units·2^1074 to a nearest encoding. -/
theorem sqrtMag_isRootRounding {units : Nat} (h : 0 < units) : IsRootRounding (sqrtMag units) (units * f64One) := by
  have hx : 2 ^ 104 ≤ units * f64One := (two_pow_le_f64One (by decide)).trans (Nat.le_mul_of_pos_left _ h)
  simp only [sqrtMag, shiftLeft_1074, Nat.shiftRight_eq_div_pow]
  generalize units * f64One = x at *
  obtain ⟨hlow, hhigh⟩ := radicand_range hx
  generalize (binLog x + 2) / 2 - 53 = e at *
  obtain ⟨⟨hsq, hlt⟩, hk⟩ := isqrt_significand hlow hhigh
  have hpos : 0 < 2 ^ (2 * e) := Nat.two_pow_pos _
  refine isRootRounding_select hk.1 hk.2 ((Nat.le_div_iff_mul_le hpos).mp hsq) ?_
  exact (Nat.div_lt_iff_lt_mul hpos).mp hlt

/-- The first encoding of a binade stands for a power of two. -/
theorem magUnits_binade (e : Nat) : magUnits (e * 0x10000000000000 + 0x10000000000000) = 2 ^ (e + 52) := by
  rw [magUnits_encode e _ (.inr le_rfl) (by decide), Nat.pow_add, Nat.mul_comm]

/-- Infinity's place on the scale, 2^1024, is far above 4. -/
theorem four_mul_f64One_le_magUnits_inf : 4 * f64One ≤ magUnits f64Inf := by
  have hfour (n : Nat) : 4 * 2 ^ n = 2 ^ (2 + n) := (Nat.pow_add 2 2 n).symm
  rw [show f64Inf = 2046 * 0x10000000000000 + 0x10000000000000 by decide, magUnits_binade, f64One,
    one_shiftLeft_eq_two_pow, hfour, Nat.pow_le_pow_iff_right (by decide)]
  decide

/-- A rounding of the root of a finite value is finite: infinity's square lies far above the value. -/
theorem IsRootRounding.finite {r m : Nat} (h : IsRootRounding r (magUnits m * f64One)) (hm : m < f64Inf) : r < f64Inf := by
  by_contra hr
  have hle : magUnits f64Inf ≤ magUnits r := magUnits_strictMono.monotone (by omega)
  have hlt : magUnits m < magUnits f64Inf := magUnits_strictMono hm
  have hone : 0 < f64One := f64One_pos
  have hsq : magUnits f64Inf * magUnits f64Inf ≤ 4 * (magUnits m * f64One) :=
    calc magUnits f64Inf * magUnits f64Inf = magUnits f64Inf ^ 2 := (Nat.pow_two _).symm
      _ ≤ (magUnits (r - 1) + magUnits r) ^ 2 := Nat.pow_le_pow_left (by omega) 2
      _ ≤ 4 * (magUnits m * f64One) := h.1
  have : magUnits f64Inf * magUnits f64Inf < magUnits f64Inf * magUnits f64Inf :=
    calc magUnits f64Inf * magUnits f64Inf ≤ magUnits m * (4 * f64One) := by rw [Nat.mul_left_comm]; exact hsq
      _ < magUnits f64Inf * (4 * f64One) := Nat.mul_lt_mul_of_pos_right hlt (by omega)
      _ ≤ magUnits f64Inf * magUnits f64Inf := Nat.mul_le_mul_left _ four_mul_f64One_le_magUnits_inf
  exact lt_irrefl _ this

theorem sign_mag_of_pos {x : F64} (h : flt 0 x = true) : f64Sign x = false ∧ 0 < f64Mag x := by
  simp only [flt, Bool.and_eq_true, decide_eq_true_eq] at h
  have horder : f64Order 0 < f64Order x := h.2
  rw [show f64Order 0 = 0 by decide, f64Order] at horder
  cases hs : f64Sign x
  · simpa [hs] using horder
  · simp [hs] at horder; omega

theorem fsqrt_of_pos {x : F64} (hfin : isfinite x = true) (hpos : flt 0 x = true) :
    fsqrt x = f64Make false (sqrtMag (f64Units x)) := by
  obtain ⟨hsign, hmag⟩ := sign_mag_of_pos hpos
  simp [fsqrt, isnan_of_isfinite hfin, isinf_of_isfinite hfin, hsign, hmag.ne']

/-- Settles O53: the root of x is rounded to the encoding between whose midpoints it lies. -/
theorem squareRootIsCorrectlyRounded : Obligations.SquareRootIsCorrectlyRounded := by
  intro x hfin hpos
  have hunits : 0 < f64Units x := by
    rw [f64Units_eq_magUnits]
    exact (Nat.zero_le _).trans_lt (magUnits_strictMono (sign_mag_of_pos hpos).2)
  have hroot : IsRootRounding (sqrtMag (f64Units x)) (f64Units x * f64One) := sqrtMag_isRootRounding hunits
  have hlt : sqrtMag (f64Units x) < f64Inf := hroot.finite ((isfinite_iff x).mp hfin)
  obtain ⟨hbelow, habove⟩ := hroot
  rw [fsqrt_of_pos hfin hpos, isfinite_iff, f64Mag_make _ _ hlt.le, f64Units_make hlt.le, f64Units_make hlt,
    f64Units_make ((Nat.sub_le _ _).trans hlt.le)]
  exact ⟨hbelow, habove, f64Sign_make _ _ hlt.le, hlt⟩

end Sys2Proof.Machine

/-! ## Settling O50: what the engine's valid bits say, and how a step keeps it -/

namespace Sys2Proof.Machine

/-! ### What a bit of VALID says, and when it stays true -/

/-- What bit i of VALID says while it is 1 (R24): the geometry is legal and the bit's buffers have been written. Only the
engine sets bits 0, 2, 3 and 4; bit 1 is also the host's, and says nothing of the storage. -/
def State.BitClaim (s : State) : Nat → Prop
  | 0 => s.GeometryLegal ∧ s.Written .f16 (s.width.toNat * s.height.toNat)
  | 2 => s.GeometryLegal ∧ s.Written .hist 256
  | 3 => s.GeometryLegal ∧ s.Written .mhist 256 ∧ s.Written .pdf 256 ∧ s.Written .pdfw 256 ∧ s.Written .cdfw 256 ∧
      s.Written .lut 256
  | 4 => s.GeometryLegal ∧ s.Written .f8out (s.width.toNat * s.height.toNat)
  | _ => True

theorem resultsOk_iff (s : State) : s.ResultsOk ↔ ∀ i, s.valid.getLsbD i = true → s.BitClaim i := by
  constructor
  · rintro ⟨hframe16, hstatistics, htone, houtput⟩ i
    match i with
    | 0 => exact hframe16
    | 1 => exact fun _ => trivial
    | 2 => exact hstatistics
    | 3 => exact htone
    | 4 => exact houtput
    | _ + 5 => exact fun _ => trivial
  · exact fun h => ⟨h 0, h 2, h 3, h 4⟩

/-- With VALID at 0 nothing is claimed of the buffers. -/
theorem resultsOk_of_valid_zero {s : State} (h : s.valid = 0) : s.ResultsOk :=
  (resultsOk_iff s).mpr fun i hi => by simp [h] at hi

/-- Every byte that is written in m is written in m'. -/
def Memory.Grows (m m' : Memory) : Prop := ∀ a, (m.written a).isSome = true → (m'.written a).isSome = true

theorem Memory.Grows.refl (m : Memory) : m.Grows m := fun _ h => h

theorem Memory.Grows.trans {m m' m'' : Memory} (h : m.Grows m') (h' : m'.Grows m'') : m.Grows m'' :=
  fun a ha => h' a (h a ha)

/-- No write takes a written byte away. -/
theorem grows_write (m : Memory) (a : Nat) (bs : List Byte) : m.Grows (m.write a bs) := by
  intro x hx
  rw [written_write]
  split
  · rw [List.getElem?_eq_getElem (by omega), Option.isSome_some]
  · exact hx

theorem grows_store (m : Memory) (b : Buffer) (bs : List Byte) : m.Grows (m.store b bs) := grows_write m b.base bs

theorem grows_storeHostBytes (p : Params) (bs : List Byte) (a : Nat) (m : Memory) :
    m.Grows (storeHostBytes p bs a m) := by
  intro x hx
  rw [written_storeHostBytes]
  split
  · rw [List.getElem?_eq_getElem (by omega), Option.isSome_some]
  · exact hx

/-- A claim stays true while the geometry stays and no written byte is taken away. -/
theorem State.BitClaim.of_grows {s t : State} {i : Nat} (h : s.BitClaim i) (hw : t.width = s.width)
    (hh : t.height = s.height) (hg : s.mem.Grows t.mem) : t.BitClaim i := by
  have hlegal : s.GeometryLegal → t.GeometryLegal := by rw [State.GeometryLegal, State.GeometryLegal, hw, hh]; exact id
  have hwritten {b : Buffer} {n : Nat} (hb : s.Written b n) : t.Written b n := fun j hj => hg _ (hb j hj)
  match i with
  | 0 => rw [State.BitClaim, hw, hh]; exact h.imp hlegal hwritten
  | 1 => trivial
  | 2 => exact h.imp hlegal hwritten
  | 3 =>
    obtain ⟨hgeo, hmhist, hpdf, hpdfw, hcdfw, hlut⟩ := h
    exact ⟨hlegal hgeo, hwritten hmhist, hwritten hpdf, hwritten hpdfw, hwritten hcdfw, hwritten hlut⟩
  | 4 => rw [State.BitClaim, hw, hh]; exact h.imp hlegal hwritten
  | _ + 5 => trivial

/-- An update that keeps the geometry, takes no written byte away and moves one bit of VALID keeps the claims, when the
claim of that bit holds after it. -/
theorem State.ResultsOk.of_setBit {s t : State} (h : s.ResultsOk) (hw : t.width = s.width) (hh : t.height = s.height)
    (hg : s.mem.Grows t.mem) {i : Nat} {b : Bool} (hv : t.valid = setBit s.valid i b) (hclaim : t.BitClaim i) :
    t.ResultsOk := by
  rw [resultsOk_iff] at h ⊢
  intro j hj
  by_cases hij : i = j
  · exact hij ▸ hclaim
  · rw [hv, getLsbD_setBit_ne _ _ hij] at hj
    exact (h j hj).of_grows hw hh hg

/-- An update that keeps the geometry and VALID and takes no written byte away keeps the claims. -/
theorem State.ResultsOk.of_same_valid {s t : State} (h : s.ResultsOk) (hw : t.width = s.width)
    (hh : t.height = s.height) (hg : s.mem.Grows t.mem) (hv : t.valid = s.valid) : t.ResultsOk := by
  rw [resultsOk_iff] at h ⊢
  exact fun i hi => (h i (hv ▸ hi)).of_grows hw hh hg

/-! ### What a commit has written -/

/-- A store of all the bytes of the elements 0 to n-1 of a buffer leaves them written. -/
theorem written_store {m : Memory} {b : Buffer} {bs : List Byte} {n : Nat} (hlen : bs.length = b.elemBytes * n) :
    ∀ j < b.elemBytes * n, ((m.store b bs).written (b.base + j)).isSome = true := by
  intro j hj
  rw [Memory.store, written_write_inside m b.base j bs (hlen ▸ hj), Option.isSome_some]

/-- TONE takes no written byte away. -/
theorem grows_toneStore (r : ToneResult) (m : Memory) : m.Grows (toneStore r m) :=
  (grows_store _ _ _).trans <| (grows_store _ _ _).trans <| (grows_store _ _ _).trans <|
    (grows_store _ _ _).trans (grows_store _ _ _)

/-- TONE leaves all of its five buffers written (R131). -/
theorem bitClaim_commitTone {s : State} {r : ToneResult} (hlegal : s.GeometryLegal) (hr : r.Sized) :
    (commitTone r s).BitClaim 3 := by
  obtain ⟨hmhist, hpdf, hpdfw, hcdfw, hlut⟩ := hr
  have hdwords (xs : List F64) (h : xs.length = 256) : (xs.flatMap dwordBytes).length = 8 * 256 := by
    rw [flatMap_length_const _ 8 dwordBytes_length, h]
  have hwords : (r.mhist.flatMap fun n => wordElemBytes (BitVec.ofNat 32 n)).length = 4 * 256 := by
    rw [flatMap_length_const _ 4 fun n => wordElemBytes_length (BitVec.ofNat 32 n), hmhist]
  have hlut' : r.lut.length = 1 * 256 := hlut
  refine ⟨hlegal, fun j hj => ?_, fun j hj => ?_, fun j hj => ?_, fun j hj => ?_, fun j hj => ?_⟩
  · exact grows_store _ _ _ _ (grows_store _ _ _ _ (grows_store _ _ _ _ (grows_store _ _ _ _
      (written_store (b := .mhist) hwords j hj))))
  · exact grows_store _ _ _ _ (grows_store _ _ _ _ (grows_store _ _ _ _
      (written_store (b := .pdf) (hdwords _ hpdf) j hj)))
  · exact grows_store _ _ _ _ (grows_store _ _ _ _ (written_store (b := .pdfw) (hdwords _ hpdfw) j hj))
  · exact grows_store _ _ _ _ (written_store (b := .cdfw) (hdwords _ hcdfw) j hj)
  · exact written_store (b := .lut) hlut' j hj

/-- Every commit keeps what VALID says: it sets the bit of the buffers it has just written. -/
theorem State.Commits.keeps_resultsOk {s t : State} (hc : s.Commits t) (h : s.ResultsOk) : t.ResultsOk := by
  obtain rfl | ⟨hlegal, ⟨xs, rfl, hlen, -⟩ | ⟨px, lo, hi, flat, rfl, -⟩ | ⟨diffs, rfl, -⟩ | ⟨r, rfl, hr⟩ |
    ⟨px, rfl, hlen⟩⟩ := hc
  · exact resultsOk_of_valid_zero rfl
  · have hbytes : (xs.flatMap halfBytes).length = 2 * s.pixels := by
      rw [flatMap_length_const _ 2 halfBytes_length, hlen]
    exact h.of_setBit rfl rfl (grows_store _ _ _) (commitF16_valid xs s) ⟨hlegal, written_store (b := .f16) hbytes⟩
  · exact h.of_setBit rfl rfl (grows_store _ _ _) (commitCompress_valid px lo hi flat s) trivial
  · have hbytes (counted : List Byte) :
        ((histBinsOf counted).flatMap fun n => wordElemBytes (BitVec.ofNat 32 n)).length = 4 * 256 := by
      rw [flatMap_length_const _ 4 fun n => wordElemBytes_length (BitVec.ofNat 32 n)]
      simp [histBinsOf]
    exact h.of_setBit rfl rfl (grows_store _ _ _) (commitHist_valid _ _ _ s)
      ⟨hlegal, written_store (b := .hist) (hbytes _)⟩
  · exact h.of_setBit rfl rfl (grows_toneStore r s.mem) (commitTone_valid r s) (bitClaim_commitTone hlegal hr)
  · have hbytes : px.length = 1 * s.pixels := by rw [hlen, Nat.one_mul]
    exact h.of_setBit rfl rfl (grows_store _ _ _) (commitRemap_valid px s) ⟨hlegal, written_store (b := .f8out) hbytes⟩

/-! ### What a step keeps -/

theorem resultsOk_writeRegIdle {s : State} (h : s.ResultsOk) (v : Word) (r : RegName) :
    (writeRegIdle s v r).ResultsOk := by
  cases r with
  | width => exact resultsOk_of_valid_zero rfl
  | height => exact resultsOk_of_valid_zero rfl
  | valid => exact h.of_setBit rfl rfl (Memory.Grows.refl _) (i := 1) rfl trivial
  | _ => exact h.of_same_valid rfl rfl (Memory.Grows.refl _) rfl

theorem resultsOk_writeReg {s : State} (h : s.ResultsOk) (a : Nat) (v : Word) : (writeReg s a v).ResultsOk := by
  rw [writeReg]
  split
  · rename_i r _
    split
    · rw [writeRegBusy]
      split
      · exact h.of_same_valid rfl rfl (Memory.Grows.refl _) rfl
      · split
        · exact h.of_same_valid rfl rfl (Memory.Grows.refl _) rfl
        · exact h
    · exact resultsOk_writeRegIdle h v r
  · exact h

theorem resultsOk_writeWindow {s : State} (h : s.ResultsOk) (p : Params) (size : AccessSize) (a : Nat) (v : Word) :
    (writeWindow p s size a v).ResultsOk := by
  rw [writeWindow]
  split
  · split
    · exact h.of_same_valid rfl rfl (Memory.Grows.refl _) rfl
    · exact h
  · exact h.of_same_valid rfl rfl (grows_storeHostBytes _ _ _ _) rfl

theorem resultsOk_hostAccess {p : Params} {s t : State} {a : Access} (h : s.ResultsOk)
    (hacc : hostAccess p s a = .next t) : t.ResultsOk := by
  rcases hostAccess_cases hacc with ⟨size, off, -, -, rfl⟩ | ⟨size, off, v, -, -, rfl⟩ | ⟨d, rfl⟩
  · rw [hostRead]
    split <;> exact h.of_same_valid rfl rfl (Memory.Grows.refl _) rfl
  · rw [hostWrite]
    split
    · exact (resultsOk_writeReg h off v).of_same_valid rfl rfl (Memory.Grows.refl _) rfl
    · exact (resultsOk_writeWindow h p size off v).of_same_valid rfl rfl (Memory.Grows.refl _) rfl
  · exact h.of_same_valid rfl rfl (Memory.Grows.refl _) rfl

theorem resultsOk_engineTurn {s t : State} (h : s.ResultsOk) (hturn : engineTurn s = .next t) : t.ResultsOk := by
  rcases engineTurn_cases hturn with ⟨-, i, -, hexec⟩ | ⟨-, -, rfl⟩ | ⟨-, rfl⟩
  · exact exec_keeps State.ResultsOk (fun _ _ hx hc => hc.keeps_resultsOk hx)
      (fun _ hx => hx.of_same_valid rfl rfl (Memory.Grows.refl _) rfl)
      (fun _ _ hx => hx.of_same_valid rfl rfl (Memory.Grows.refl _) rfl) h hexec
  · exact h.of_same_valid rfl rfl (Memory.Grows.refl _) rfl
  · exact h

/-- Settles O50: the engine sets a bit of VALID only in the commit that writes the bit's buffers, no access takes a written
byte away, and a write of WIDTH or HEIGHT and the reset clear VALID. -/
theorem stepKeepsResultsOk : Obligations.StepKeepsResultsOk := by
  intro s t h hstep
  have hmoves : State.ResultsOk { s with moves := s.moves.tail } :=
    h.of_same_valid rfl rfl (Memory.Grows.refl _) rfl
  rcases step_cases hstep with ⟨hturn, -⟩ | ⟨a, -, hacc⟩ | ⟨-, rfl⟩
  · exact resultsOk_engineTurn hmoves hturn
  · exact resultsOk_hostAccess hmoves hacc
  · exact resultsOk_of_valid_zero rfl

end Sys2Proof.Machine

/-! ## Settling O31 and O33: what no command writes, and what no command reads -/

namespace Sys2Proof.Machine

/-! ### The host's part of the state -/

/-- What only the host and the outside write, but for RAW: the configuration registers, CMD, HOST_VIOL and the model's own
fields (R18, R183). -/
def State.hostPart (s : State) :
    (Word × Word × Word × Word × Word × Word × Word × F64) × (List Move × Option Response × Nat × Nat) × Bool :=
  ((s.ctrl, s.cmd, s.width, s.height, s.rawLen, s.threshold, s.alpha, s.gain),
    (s.moves, s.response, s.epoch, s.draws), s.hostViol)

/-- The bytes of the RAW window read the same in both storages. -/
def Memory.KeepsRawWindow (m m' : Memory) : Prop :=
  ∀ epoch a, 0x01000000 ≤ a → a < 0x02000000 → m'.byteAt epoch a = m.byteAt epoch a

theorem Memory.KeepsRawWindow.refl (m : Memory) : m.KeepsRawWindow m := fun _ _ _ _ => rfl

theorem Memory.KeepsRawWindow.trans {m m' m'' : Memory} (h : m.KeepsRawWindow m') (h' : m'.KeepsRawWindow m'') :
    m.KeepsRawWindow m'' :=
  fun epoch a hlo hhi => (h' epoch a hlo hhi).trans (h epoch a hlo hhi)

/-- A store that fits a buffer other than RAW stays out of the RAW window (R56). -/
theorem keepsRawWindow_store (m : Memory) {b : Buffer} {bs : List Byte} (hb : b ≠ .raw)
    (hfit : bs.length ≤ b.bytes Config.params) : m.KeepsRawWindow (m.store b bs) := by
  intro epoch a hlo hhi
  refine byteAt_write_outside _ _ _ _ _ ?_
  cases b <;> simp [Buffer.base, Buffer.bytes, Buffer.elemBytes, Buffer.capacity, Config.params] at hb hfit ⊢ <;> omega

theorem keepsRawWindow_toneStore (m : Memory) {r : ToneResult} (hr : r.Sized) : m.KeepsRawWindow (toneStore r m) := by
  obtain ⟨hmhist, hpdf, hpdfw, hcdfw, hlut⟩ := hr
  have hdwords {xs : List F64} (h : xs.length = 256) : (xs.flatMap dwordBytes).length ≤ 2048 := by
    rw [flatMap_length_const _ 8 dwordBytes_length, h]
  have hwords : (r.mhist.flatMap fun n => wordElemBytes (BitVec.ofNat 32 n)).length ≤ 1024 := by
    rw [flatMap_length_const _ 4 fun n => wordElemBytes_length (BitVec.ofNat 32 n), hmhist]
  exact (keepsRawWindow_store m (b := .mhist) (by decide) hwords).trans <|
    (keepsRawWindow_store _ (b := .pdf) (by decide) (hdwords hpdf)).trans <|
    (keepsRawWindow_store _ (b := .pdfw) (by decide) (hdwords hpdfw)).trans <|
    (keepsRawWindow_store _ (b := .cdfw) (by decide) (hdwords hcdfw)).trans <|
    keepsRawWindow_store _ (b := .lut) (by decide) hlut.le

/-- t has the host's part of s: only what the engine writes can differ (R18, R36). -/
def State.KeepsHost (s t : State) : Prop := t.hostPart = s.hostPart ∧ s.mem.KeepsRawWindow t.mem

theorem State.KeepsHost.trans {s t u : State} (h : s.KeepsHost t) (h' : t.KeepsHost u) : s.KeepsHost u :=
  ⟨h'.1.trans h.1, h.2.trans h'.2⟩

theorem State.KeepsHost.epoch_eq {s t : State} (h : s.KeepsHost t) : t.epoch = s.epoch := by
  obtain ⟨hpart, -⟩ := h
  simp only [State.hostPart, Prod.mk.injEq] at hpart
  obtain ⟨-, ⟨-, -, hepoch, -⟩, -⟩ := hpart
  exact hepoch

theorem keepsHost_complete (s : State) : s.KeepsHost s.complete :=
  ⟨by rw [State.hostPart, hostViol_complete]; rfl, .refl _⟩

theorem keepsHost_raise (s : State) (e : StageError) : s.KeepsHost (s.raise e) :=
  ⟨by rw [State.hostPart, hostViol_raise]; rfl, .refl _⟩

/-- No commit reaches the host's part: each stores into its own buffers and sets its own result registers (R36, R92). -/
theorem State.Commits.keepsHost {s t : State} (hc : s.Commits t) : s.KeepsHost t := by
  obtain rfl | ⟨hlegal, ⟨xs, rfl, hlen, -⟩ | ⟨px, lo, hi, flat, rfl, hlen⟩ | ⟨diffs, rfl, -⟩ | ⟨r, rfl, hr⟩ |
    ⟨px, rfl, hlen⟩⟩ := hc
  · exact ⟨rfl, .refl _⟩
  · refine ⟨rfl, keepsRawWindow_store s.mem (b := .f16) (by decide) ?_⟩
    rw [flatMap_length_const _ 2 halfBytes_length, hlen]
    exact Nat.mul_le_mul_left 2 hlegal.2.2
  · exact ⟨rfl, keepsRawWindow_store s.mem (b := .f8in) (by decide) (hlen.trans_le hlegal.2.2)⟩
  · refine ⟨rfl, keepsRawWindow_store s.mem (b := .hist) (by decide) ?_⟩
    rw [flatMap_length_const _ 4 fun n => wordElemBytes_length (BitVec.ofNat 32 n)]
    simp [histBinsOf, Buffer.bytes, Buffer.elemBytes, Buffer.capacity]
  · exact ⟨rfl, keepsRawWindow_toneStore s.mem hr⟩
  · exact ⟨rfl, keepsRawWindow_store s.mem (b := .f8out) (by decide) (hlen.trans_le hlegal.2.2)⟩

/-- No command reaches the host's part (R18, R36, R169). -/
theorem exec_keepsHost {i : Instr} {s t : State} (h : exec i s = .next t) : s.KeepsHost t :=
  exec_keeps s.KeepsHost (fun _ _ hx hc => hx.trans hc.keepsHost) (fun x hx => hx.trans (keepsHost_complete x))
    (fun x e hx => hx.trans (keepsHost_raise x e)) ⟨rfl, .refl _⟩ h

/-- Settles O31: the fields of the host's part, one by one, and the RAW window. -/
theorem noCommandWritesTheHostsState : Obligations.NoCommandWritesTheHostsState := by
  intro i s t h
  obtain ⟨hpart, hraw⟩ := exec_keepsHost h
  simp only [State.hostPart, Prod.mk.injEq] at hpart
  obtain ⟨⟨hctrl, hcmd, hwidth, hheight, hrawLen, hthreshold, halpha, hgain⟩, ⟨hmoves, hresponse, hepoch, hdraws⟩,
    hviol⟩ := hpart
  refine ⟨hctrl, hcmd, hwidth, hheight, hrawLen, hthreshold, halpha, hgain, hmoves, hresponse, hepoch, hdraws, hviol,
    fun a hlo hhi => ?_⟩
  rw [State.byteAt, State.byteAt, hepoch]
  exact hraw s.epoch a hlo hhi

/-! ### ALPHA -/

/-- The state with another ALPHA. -/
def State.withAlpha (s : State) (x : Word) : State := { s with alpha := x }

/-- A stage gives the same outcome from every ALPHA, and leaves ALPHA (R26). -/
def Stage.IgnoresAlpha (stage : Stage) : Prop :=
  ∀ (s : State) (x : Word), stage (s.withAlpha x) = (stage s).map fun t => t.withAlpha x

@[simp] theorem State.withAlpha_dimsOk (p : Params) (s : State) (x : Word) :
    (s.withAlpha x).dimsOk p = s.dimsOk p := rfl
@[simp] theorem State.withAlpha_rawLen (s : State) (x : Word) : (s.withAlpha x).rawLen = s.rawLen := rfl
@[simp] theorem State.withAlpha_pixels (s : State) (x : Word) : (s.withAlpha x).pixels = s.pixels := rfl
@[simp] theorem State.withAlpha_frameW (s : State) (x : Word) : (s.withAlpha x).frameW = s.frameW := rfl
@[simp] theorem State.withAlpha_vF16 (s : State) (x : Word) : (s.withAlpha x).vF16 = s.vF16 := rfl
@[simp] theorem State.withAlpha_vF8in (s : State) (x : Word) : (s.withAlpha x).vF8in = s.vF8in := rfl
@[simp] theorem State.withAlpha_vStats (s : State) (x : Word) : (s.withAlpha x).vStats = s.vStats := rfl
@[simp] theorem State.withAlpha_vTone (s : State) (x : Word) : (s.withAlpha x).vTone = s.vTone := rfl
@[simp] theorem State.withAlpha_flatZero (s : State) (x : Word) : (s.withAlpha x).flatZero = s.flatZero := rfl
@[simp] theorem State.withAlpha_thresholdValue (s : State) (x : Word) :
    (s.withAlpha x).thresholdValue = s.thresholdValue := rfl
@[simp] theorem State.withAlpha_gainValue (s : State) (x : Word) : (s.withAlpha x).gainValue = s.gainValue := rfl
@[simp] theorem State.withAlpha_rawBytes (s : State) (x : Word) : (s.withAlpha x).rawBytes = s.rawBytes := rfl
@[simp] theorem State.withAlpha_f16Samples (s : State) (x : Word) : (s.withAlpha x).f16Samples = s.f16Samples := rfl
@[simp] theorem State.withAlpha_f8inPixels (s : State) (x : Word) : (s.withAlpha x).f8inPixels = s.f8inPixels := rfl
@[simp] theorem State.withAlpha_lutTable (s : State) (x : Word) : (s.withAlpha x).lutTable = s.lutTable := rfl
@[simp] theorem State.withAlpha_toneOutcome (p : Params) (s : State) (x : Word) :
    (s.withAlpha x).toneOutcome p = s.toneOutcome p := rfl

theorem stageLoadBe_ignoresAlpha (p : Params) : Stage.IgnoresAlpha (stageLoadBe p) := by
  intro s x
  rw [stageLoadBe_eq, stageLoadBe_eq, State.withAlpha_dimsOk, State.withAlpha_rawLen,
    State.withAlpha_pixels, State.withAlpha_rawBytes]
  split_ifs <;> rfl

theorem stageLoadNative_ignoresAlpha (p : Params) : Stage.IgnoresAlpha (stageLoadNative p) := by
  intro s x
  rw [stageLoadNative_eq, stageLoadNative_eq, State.withAlpha_dimsOk, State.withAlpha_rawLen,
    State.withAlpha_pixels, State.withAlpha_rawBytes]
  split_ifs <;> rfl

theorem stageCompress_ignoresAlpha (p : Params) : Stage.IgnoresAlpha (stageCompress p) := by
  intro s x
  rw [stageCompress_eq, stageCompress_eq, State.withAlpha_dimsOk, State.withAlpha_vF16,
    State.withAlpha_f16Samples, State.withAlpha_flatZero]
  split_ifs <;> rfl

theorem stageHist_ignoresAlpha (p : Params) : Stage.IgnoresAlpha (stageHist p) := by
  intro s x
  rw [stageHist_eq, stageHist_eq, State.withAlpha_dimsOk, State.withAlpha_vF8in,
    State.withAlpha_thresholdValue, State.withAlpha_frameW, State.withAlpha_f8inPixels]
  split_ifs <;> rfl

theorem stageTone_ignoresAlpha (p : Params) : Stage.IgnoresAlpha (stageTone p) := by
  intro s x
  rw [stageTone_eq, stageTone_eq, State.withAlpha_dimsOk, State.withAlpha_vStats,
    State.withAlpha_gainValue, State.withAlpha_toneOutcome]
  cases s.toneOutcome p <;> split_ifs <;> rfl

theorem stageRemap_ignoresAlpha (p : Params) : Stage.IgnoresAlpha (stageRemap p) := by
  intro s x
  rw [stageRemap_eq, stageRemap_eq, State.withAlpha_dimsOk, State.withAlpha_vF8in,
    State.withAlpha_vTone, State.withAlpha_f8inPixels, State.withAlpha_lutTable]
  split_ifs <;> rfl

theorem stageInvalidate_ignoresAlpha : Stage.IgnoresAlpha stageInvalidate := fun _ _ => rfl

/-- No stage of a command reads ALPHA (R26, R75). -/
theorem stagesOf_ignoreAlpha (i : Instr) : ∀ stage ∈ stagesOf i, stage.IgnoresAlpha := by
  cases i <;> simp [stagesOf, stageLoadBe_ignoresAlpha, stageLoadNative_ignoresAlpha, stageCompress_ignoresAlpha,
    stageHist_ignoresAlpha, stageTone_ignoresAlpha, stageRemap_ignoresAlpha, stageInvalidate_ignoresAlpha]

/-- A command whose stages ignore ALPHA ignores it: by induction on the stages still to run. -/
theorem runCommand_withAlpha {stages : List Stage} (h : ∀ stage ∈ stages, stage.IgnoresAlpha) (s : State) (x : Word) :
    runCommand stages (s.withAlpha x) = (runCommand stages s).withAlpha x := by
  induction stages generalizing s with
  | nil => rfl
  | cons stage rest ih =>
    have hstage := h stage List.mem_cons_self s x
    cases hs : stage s with
    | ok t =>
      rw [hs] at hstage
      rw [runCommand_cons_ok hs, runCommand_cons_ok hstage]
      exact ih (fun st hst => h st (List.mem_cons_of_mem _ hst)) t
    | error e =>
      rw [hs] at hstage
      rw [runCommand_cons_error hs, runCommand_cons_error hstage]
      rfl

/-- Settles O33: every command is the run of its stages, and no stage reads ALPHA. -/
theorem alphaHasNoEffect : Obligations.AlphaHasNoEffect := by
  intro i s t x h
  rw [exec_eq_runCommand] at h ⊢
  cases h
  exact congrArg Host.Outcome.next (runCommand_withAlpha (stagesOf_ignoreAlpha i) s x)

end Sys2Proof.Machine

/-! ## Settling O40, O41, O43 and O44: the host's accesses to registers and to reserved space -/

namespace Sys2Proof.Machine

/-! ### A step that is a host access -/

theorem step_access {s : State} {rest : List Move} {a : Access} (h : s.moves = .access a :: rest) :
    step s = hostAccess Config.params { s with moves := rest } a := by
  rw [step, advance, h]; rfl

/-- A step that is an aligned write to the block, 4 bytes wide where it is one to a register (R50 to R54). -/
theorem step_write {s : State} {rest : List Move} {size : AccessSize} {a : Nat} {v : Word}
    (h : s.moves = .access (.write size a v) :: rest) (hdec : a < 0x05000000) (halign : a % size.bytes = 0)
    (hwide : 0x1000 ≤ a ∨ size = .word) :
    step s = .next (hostWrite Config.params { s with moves := rest } size a v) := by
  simp [step_access h, hostAccess, offsetDecoded, accessOkay, hdec, halign, hwide]

/-- A step that is an aligned read of the block, 4 bytes wide where it is one of a register (R50 to R54). -/
theorem step_read {s : State} {rest : List Move} {size : AccessSize} {a : Nat}
    (h : s.moves = .access (.read size a) :: rest) (hdec : a < 0x05000000) (halign : a % size.bytes = 0)
    (hwide : 0x1000 ≤ a ∨ size = .word) : step s = .next (hostRead Config.params { s with moves := rest } size a) := by
  simp [step_access h, hostAccess, offsetDecoded, accessOkay, hdec, halign, hwide]

/-- Every register lies in the register block, at a multiple of 4 (R18). -/
theorem RegName.offset_le (r : RegName) : r.offset ≤ 0x074 ∧ r.offset % 4 = 0 := by cases r <;> decide

/-- A step that is a 4-byte write into the register block. -/
theorem step_write_reg {s : State} {rest : List Move} {a : Nat} {v : Word}
    (h : s.moves = .access (.write .word a v) :: rest) (hreg : a < 0x1000) (halign : a % 4 = 0) :
    step s = .next ((writeReg { s with moves := rest } a v).respondOkay none) := by
  rw [step_write h (by omega) halign (.inr rfl), hostWrite, if_pos hreg]

/-! ### Writes of registers -/

theorem writeReg_offset_idle {s : State} (h : s.busy = false) (r : RegName) (v : Word) :
    writeReg s r.offset v = writeRegIdle s v r := by
  simp [writeReg, h]

theorem writeReg_offset_busy {s : State} (h : s.busy = true) (r : RegName) (v : Word) :
    writeReg s r.offset v = writeRegBusy s v r := by
  simp [writeReg, h]

theorem writeReg_reserved {a : Nat} (h : regAt a = none) (s : State) (v : Word) : writeReg s a v = s := by
  rw [writeReg, h]

/-- An offset without a register is that of none. -/
theorem ne_offset_of_regAt_none {a : Nat} (h : regAt a = none) (r : RegName) : a ≠ r.offset := by
  rintro rfl
  simp at h

/-- STATUS acts normally, idle or busy (R20, R183). -/
theorem writeReg_status (s : State) (v : Word) : writeReg s 0x004 v = s.acknowledge v := by
  cases hb : s.busy
  · exact writeReg_offset_idle hb .status v
  · exact writeReg_offset_busy hb .status v

/-- The mask 0xE of R20 is that of bits 1, 2 and 3. -/
theorem getLsbD_clearMask (i : Nat) : (0x0000000E : Word).getLsbD i = decide (1 ≤ i ∧ i ≤ 3) := by
  by_cases hi : i < 32
  · interval_cases i <;> rfl
  · rw [BitVec.getLsbD_of_ge _ _ (by omega), eq_comm, decide_eq_false_iff_not]; omega

/-- A write of v to STATUS clears bits 1, 2 and 3 where v has a 1, bit by bit (R20). -/
theorem getLsbD_statusCleared (st v : Word) (i : Nat) :
    (statusCleared st v).getLsbD i = (st.getLsbD i && !(v.getLsbD i && decide (1 ≤ i ∧ i ≤ 3))) := by
  by_cases hi : i < 32
  · rw [statusCleared, BitVec.getLsbD_and, BitVec.getLsbD_not, BitVec.getLsbD_and, getLsbD_clearMask]
    simp [hi]
  · simp [BitVec.getLsbD_of_ge _ _ (Nat.le_of_not_lt hi)]

/-- The bits of STATUS other than 1, 2 and 3 ignore the write (R20). -/
theorem statusCleared_and_others (st v : Word) : statusCleared st v &&& 0xFFFFFFF1 = st &&& 0xFFFFFFF1 := by
  refine BitVec.eq_of_getLsbD_eq fun i hi => ?_
  have hothers : (0xFFFFFFF1 : Word).getLsbD i = !decide (1 ≤ i ∧ i ≤ 3) := by
    rw [show (0xFFFFFFF1 : Word) = ~~~0x0000000E from rfl, BitVec.getLsbD_not, getLsbD_clearMask]
    simp [hi]
  rw [BitVec.getLsbD_and, BitVec.getLsbD_and, getLsbD_statusCleared, hothers]
  cases st.getLsbD i <;> cases v.getLsbD i <;> cases decide (1 ≤ i ∧ i ≤ 3) <;> rfl

/-- ERRCODE ignores the write (R20). -/
theorem statusCleared_errcode (st v : Word) : (statusCleared st v).extractLsb' 8 4 = st.extractLsb' 8 4 := by
  refine BitVec.eq_of_getLsbD_eq fun i hi => ?_
  rw [BitVec.getLsbD_extractLsb', BitVec.getLsbD_extractLsb', getLsbD_statusCleared,
    decide_eq_false (by omega : ¬(1 ≤ 8 + i ∧ 8 + i ≤ 3)), Bool.and_false, Bool.not_false, Bool.and_true]

/-- Settles O40: the write acknowledges, idle or busy, and the rest is what STATUS is after it bit by bit. -/
theorem statusWriteClearsOnlyWrittenBits : Obligations.StatusWriteClearsOnlyWrittenBits := by
  intro s rest v hmoves
  refine ⟨_, step_write_reg hmoves (by decide) (by decide), ?_⟩
  rw [writeReg_status]
  exact ⟨rfl, (getLsbD_statusCleared s.status v 1).trans (by simp [State.done]),
    (getLsbD_statusCleared s.status v 2).trans (by simp [State.err]),
    (getLsbD_statusCleared s.status v 3).trans (by simp [State.hostViol]),
    (getLsbD_statusCleared s.status v 0).trans (by simp [State.busy]), statusCleared_errcode _ _,
    statusCleared_and_others _ _⟩

/-- A write of VALID takes bit 1 of v and leaves the others (R24). -/
theorem validWritten_eq (valid v : Word) : validWritten valid v = (valid &&& 0xFFFFFFFD) ||| (v &&& 0x00000002) := by
  have hbit : v &&& 0x00000002 = if v.getLsbD 1 then 0x00000002 else 0 := BitVec.and_twoPow v 1
  have hmask (i : Nat) (hi : i < 32) : (0xFFFFFFFD : Word).getLsbD i = !(0x00000002 : Word).getLsbD i := by
    rw [show (0xFFFFFFFD : Word) = ~~~0x00000002 from rfl, BitVec.getLsbD_not]
    simp [hi]
  rw [validWritten, setBit, hbit]
  cases v.getLsbD 1
  · exact BitVec.or_zero.symm
  · refine BitVec.eq_of_getLsbD_eq fun i hi => ?_
    show (valid ||| 0x00000002).getLsbD i = ((valid &&& 0xFFFFFFFD) ||| 0x00000002).getLsbD i
    rw [BitVec.getLsbD_or, BitVec.getLsbD_or, BitVec.getLsbD_and, hmask i hi]
    cases valid.getLsbD i <;> cases (0x00000002 : Word).getLsbD i <;> rfl

/-- Settles O41: register by register, at the register's offset, and at an offset of the block without a register. -/
theorem idleRegisterWritesStore : Obligations.IdleRegisterWritesStore := by
  intro s rest a v hidle hmoves halign hblock hstatus hcmd
  rw [step_write_reg hmoves (by omega) halign]
  have hidle' : State.busy { s with moves := rest } = false := hidle
  refine congrArg Host.Outcome.next ?_
  cases hreg : regAt a with
  | some r =>
    obtain rfl := regAt_some hreg
    rw [writeReg_offset_idle hidle']
    cases r with
    | status => exact absurd rfl hstatus
    | cmd => exact absurd rfl hcmd
    | valid => exact congrArg (fun w => State.respondOkay { s with moves := rest, valid := w } none) (validWritten_eq _ _)
    | _ => rfl
  | none =>
    have hne := ne_offset_of_regAt_none hreg
    rw [writeReg_reserved hreg, if_neg (show a ≠ 0x000 from hne .ctrl), if_neg (show a ≠ 0x010 from hne .width),
      if_neg (show a ≠ 0x014 from hne .height), if_neg (show a ≠ 0x018 from hne .rawLen),
      if_neg (show a ≠ 0x01C from hne .valid), if_neg (show a ≠ 0x020 from hne .threshold),
      if_neg (show a ≠ 0x024 from hne .alpha), if_neg (show a ≠ 0x028 from hne .gainLo),
      if_neg (show a ≠ 0x02C from hne .gainHi)]
    rfl

/-! ### Reads of registers -/

theorem hostRead_idle {s : State} (p : Params) (h : s.busy = false) (size : AccessSize) (a : Nat) :
    hostRead p s size a = s.respondOkay (some (readIdle p s size a)) := by
  simp [hostRead, h]

/-- No register holds the moves to come. -/
theorem reg_moves (s : State) (ms : List Move) (r : RegName) : State.reg { s with moves := ms } r = s.reg r := by
  cases r <;> rfl

theorem readRegIdle_offset (s : State) (r : RegName) : readRegIdle s r.offset = s.reg r := by
  simp [readRegIdle]

/-- The two halves of a 64-bit quantity joined are the quantity (R18). -/
theorem hiHalf_append_loHalf (d : DWord) : hiHalf d ++ loHalf d = d := dword_of_halves d

/-- Settles O44: the register at a register's offset is that register, and the halves of a quantity join to it. -/
theorem idleRegisterReadsReturnTheRegister : Obligations.IdleRegisterReadsReturnTheRegister := by
  intro s rest r hidle hmoves
  obtain ⟨hle, halign⟩ := r.offset_le
  have hidle' : State.busy { s with moves := rest } = false := hidle
  refine ⟨?_, hiHalf_append_loHalf _, hiHalf_append_loHalf _, hiHalf_append_loHalf _, hiHalf_append_loHalf _,
    hiHalf_append_loHalf _, hiHalf_append_loHalf _, hiHalf_append_loHalf _⟩
  rw [step_read hmoves (by omega) halign (.inr rfl), hostRead_idle _ hidle', readIdle, if_pos (by omega),
    readRegIdle_offset, reg_moves]
  rfl

/-! ### Reserved space and the read-only windows -/

/-- The offsets past the registers have none (R46). -/
theorem regAt_reserved {a : Nat} (h : 0x078 ≤ a) : regAt a = none := by
  cases hreg : regAt a with
  | none => rfl
  | some r =>
    have hle := r.offset_le.1
    rw [regAt_some hreg] at hle
    omega

/-- The reserved space of the windows: above LUT, and from each frame window's capacity to the next window (R56, R60). -/
def WindowReserved (a : Nat) : Prop :=
  (0x3100 ≤ a ∧ a < 0x01000000) ∨ (0x01000000 + 655360 ≤ a ∧ a < 0x02000000) ∨
    (0x02000000 + 655360 ≤ a ∧ a < 0x03000000) ∨ (0x03000000 + 327680 ≤ a ∧ a < 0x04000000) ∨
    (0x04000000 + 327680 ≤ a ∧ a < 0x05000000)

/-- The windows that the host only reads, below their capacity: HIST to LUT, F16 and F8OUT (R56). -/
def WindowReadOnly (a : Nat) : Prop :=
  (0x1000 ≤ a ∧ a < 0x3100) ∨ (0x02000000 ≤ a ∧ a < 0x02000000 + 655360) ∨
    (0x04000000 ≤ a ∧ a < 0x04000000 + 327680)

/-- Where the buffers lie with the default parameters: the tables and LUT below 0x3100, and the four frame windows up to
their capacity (R56). -/
theorem bufferAt_places {a : Nat} {b : Buffer} (h : bufferAt Config.params a = some b) :
    (b.hostWritable = false ∧ 0x1000 ≤ a ∧ a < 0x3100) ∨
    (b = .raw ∧ 0x01000000 ≤ a ∧ a < 0x01000000 + 655360) ∨ (b = .f16 ∧ 0x02000000 ≤ a ∧ a < 0x02000000 + 655360) ∨
    (b = .f8in ∧ 0x03000000 ≤ a ∧ a < 0x03000000 + 327680) ∨ (b = .f8out ∧ 0x04000000 ≤ a ∧ a < 0x04000000 + 327680) := by
  have hin := bufferAt_some h
  cases b <;> simp [Buffer.base, Buffer.bytes, Buffer.elemBytes, Buffer.capacity, Buffer.hostWritable, Config.params]
    at hin ⊢ <;> omega

theorem bufferAt_of_reserved {a : Nat} (h : WindowReserved a) : bufferAt Config.params a = none := by
  cases hb : bufferAt Config.params a with
  | none => rfl
  | some b =>
    have hplaces := bufferAt_places hb
    unfold WindowReserved at h
    omega

theorem not_hostWritableAt_of_reserved {a : Nat} (h : WindowReserved a) : hostWritableAt Config.params a = false := by
  rw [hostWritableAt, bufferAt_of_reserved h]

theorem not_hostWritableAt_of_readOnly {a : Nat} (h : WindowReadOnly a) : hostWritableAt Config.params a = false := by
  rw [hostWritableAt]
  unfold WindowReadOnly at h
  split
  · rename_i b hb
    rcases bufferAt_places hb with ⟨hb, -⟩ | ⟨rfl, hplace⟩ | ⟨rfl, -⟩ | ⟨rfl, hplace⟩ | ⟨rfl, -⟩
    · exact hb
    · omega
    · rfl
    · omega
    · rfl
  · rfl

/-- An aligned access that starts in reserved space stays in it: its ends are multiples of 4. -/
theorem WindowReserved.add {size : AccessSize} {a j : Nat} (h : WindowReserved a) (halign : a % size.bytes = 0)
    (hj : j < size.bytes) : WindowReserved (a + j) := by
  unfold WindowReserved at h ⊢
  cases size <;> simp only [AccessSize.bytes] at halign hj <;> omega

/-- An aligned access that starts in a read-only window stays in it: its ends are multiples of 4. -/
theorem WindowReadOnly.add {size : AccessSize} {a j : Nat} (h : WindowReadOnly a) (halign : a % size.bytes = 0)
    (hj : j < size.bytes) : WindowReadOnly (a + j) := by
  unfold WindowReadOnly at h ⊢
  cases size <;> simp only [AccessSize.bytes] at halign hj <;> omega

/-- Bytes at offsets that are not host-writable are not stored (R56, R60). -/
theorem storeHostBytes_of_not_writable {p : Params} {bs : List Byte} {a : Nat} (m : Memory)
    (h : ∀ j < bs.length, hostWritableAt p (a + j) = false) : storeHostBytes p bs a m = m := by
  induction bs generalizing a with
  | nil => rfl
  | cons b bs ih =>
    have hhead : hostWritableAt p a = false := h 0 (by simp)
    rw [storeHostBytes, hhead]
    refine ih fun j hj => ?_
    rw [Nat.add_assoc, Nat.add_comm 1 j]
    exact h (j + 1) (by simpa using hj)

/-- A write of bytes none of which is host-writable changes nothing, idle or busy (R54, R60, R183). -/
theorem writeWindow_of_not_writable {p : Params} {size : AccessSize} {a : Nat} (s : State) (v : Word)
    (h : ∀ j < size.bytes, hostWritableAt p (a + j) = false) : writeWindow p s size a v = s := by
  have hnone : ((List.range size.bytes).any fun j => hostWritableAt p (a + j)) = false := by
    simpa using h
  have hlen : ((wordBytes v).take size.bytes).length ≤ size.bytes := by simp
  rw [writeWindow, hnone, storeHostBytes_of_not_writable s.mem fun j hj => h j (by omega)]
  split <;> rfl

/-- The data of a read whose bytes are all 0. -/
theorem laneWord_zeros (size : AccessSize) : laneWord ((List.range size.bytes).map fun _ => 0) = 0 := by
  cases size <;> decide

theorem readIdle_reserved {size : AccessSize} {a : Nat} (s : State) (halign : a % size.bytes = 0)
    (h : WindowReserved a) : readIdle Config.params s size a = 0 := by
  have hzero : ∀ j ∈ List.range size.bytes, readByteIdle Config.params s (a + j) = 0 := fun j hj => by
    rw [readByteIdle, bufferAt_of_reserved (h.add halign (List.mem_range.mp hj))]
  rw [readIdle, if_neg (by unfold WindowReserved at h; omega), List.map_congr_left hzero, laneWord_zeros]

theorem readBusy_reserved {size : AccessSize} {a : Nat} (s : State) (draw : Word) (halign : a % size.bytes = 0)
    (h : WindowReserved a) : readBusy Config.params s draw size a = 0 := by
  have hzero : ∀ j ∈ List.range size.bytes,
      readByteBusy Config.params ((wordBytes draw).getD j 0) (a + j) = 0 := fun j hj => by
    rw [readByteBusy, bufferAt_of_reserved (h.add halign (List.mem_range.mp hj))]
  rw [readBusy, if_neg (by unfold WindowReserved at h; omega), List.map_congr_left hzero, laneWord_zeros]

/-- A read whose data is 0 idle and busy answers OKAY with 0. -/
theorem hostRead_response_zero {p : Params} {s : State} {size : AccessSize} {a : Nat} (hidle : readIdle p s size a = 0)
    (hbusy : ∀ draw, readBusy p s draw size a = 0) : (hostRead p s size a).response = some ⟨true, some 0⟩ := by
  rw [hostRead, hidle, hbusy]
  split <;> rfl

/-- A step that is a write of window bytes none of which is host-writable answers OKAY and changes nothing else. -/
theorem step_write_ignored {s : State} {rest : List Move} {size : AccessSize} {a : Nat} {v : Word}
    (hmoves : s.moves = .access (.write size a v) :: rest) (halign : a % size.bytes = 0) (hlo : 0x1000 ≤ a)
    (hhi : a < 0x05000000) (h : ∀ j < size.bytes, hostWritableAt Config.params (a + j) = false) :
    step s = .next { s with moves := rest, response := some ⟨true, none⟩ } := by
  rw [step_write hmoves hhi halign (.inl hlo), hostWrite, if_neg (by omega), writeWindow_of_not_writable _ _ h]
  rfl

/-- Settles O43: no register and no buffer lies in reserved space, and no read-only window takes a byte of the host. -/
theorem reservedSpaceReadsZeroAndIgnoresWrites : Obligations.ReservedSpaceReadsZeroAndIgnoresWrites := by
  intro s rest size a v halign
  refine ⟨fun hreserved => ?_, fun hwindow hmoves => ?_⟩
  · obtain ⟨rfl, hlo, hhi⟩ | hwindow : (size = .word ∧ 0x078 ≤ a ∧ a ≤ 0xFFF) ∨ WindowReserved a := hreserved
    · have hreg : regAt a = none := regAt_reserved hlo
      refine ⟨fun hmoves => ⟨_, step_read hmoves (by omega) halign (.inr rfl), ?_⟩, fun hmoves => ?_⟩
      · refine hostRead_response_zero ?_ fun draw => ?_
        · rw [readIdle, if_pos (by omega), readRegIdle, hreg]
        · rw [readBusy, if_pos (by omega), readRegBusy, hreg]
      · rw [step_write_reg hmoves (by omega) halign, writeReg_reserved hreg]
        rfl
    · have hbounds : 0x1000 ≤ a ∧ a < 0x05000000 := by unfold WindowReserved at hwindow; omega
      refine ⟨fun hmoves => ⟨_, step_read hmoves hbounds.2 halign (.inl hbounds.1), ?_⟩, fun hmoves => ?_⟩
      · exact hostRead_response_zero (readIdle_reserved _ halign hwindow)
          fun draw => readBusy_reserved _ draw halign hwindow
      · exact step_write_ignored hmoves halign hbounds.1 hbounds.2
          fun j hj => not_hostWritableAt_of_reserved (hwindow.add halign hj)
  · have hreadOnly : WindowReadOnly a := hwindow
    exact step_write_ignored hmoves halign (by omega) (by omega)
      fun j hj => not_hostWritableAt_of_readOnly (hreadOnly.add halign hj)

end Sys2Proof.Machine

/-! ## Settling O2 and O3: the state after reset, and the bytes that nothing has written -/

namespace Sys2Proof.Machine

/-! ### Bytes that nothing has written -/

/-- An unwritten byte reads as the free value of its reset and offset (log entry 1). -/
theorem byteAt_of_unwritten {s : State} {a : Nat} (h : s.mem.written a = none) :
    s.byteAt a = Config.unwrittenByte s.epoch a := by
  rw [State.byteAt, Memory.byteAt, h]
  rfl

/-- A step that is the reset input. -/
theorem step_reset {s : State} {rest : List Move} (h : s.moves = .reset :: rest) :
    step s = .next (State.resetInput { s with moves := rest }) := by
  rw [step, advance, h]
  rfl

@[simp] theorem busy_resetInput (s : State) : s.resetInput.busy = false := BitVec.getLsbD_zero

/-- A 1-byte read shows its byte in lane 0, and 0 in the others (log entry 9). -/
theorem laneWord_singleton (b : Byte) : laneWord [b] = b.setWidth 32 := by
  have hlt : b.toNat < 2 ^ 8 := b.isLt
  refine BitVec.eq_of_toNat_eq ?_
  show ((0 : Byte) ++ (0 : Byte) ++ (0 : Byte) ++ b).toNat = (b.setWidth 32).toNat
  rw [BitVec.toNat_append, BitVec.toNat_setWidth, Nat.mod_eq_of_lt (by omega)]
  simp

theorem writeReg_epoch (s : State) (a : Nat) (v : Word) : (writeReg s a v).epoch = s.epoch := by
  rw [writeReg]
  split
  · rename_i r _
    split
    · rw [writeRegBusy]
      split
      · rfl
      · split <;> rfl
    · cases r <;> rfl
  · rfl

theorem writeWindow_epoch (p : Params) (s : State) (size : AccessSize) (a : Nat) (v : Word) :
    (writeWindow p s size a v).epoch = s.epoch := by
  rw [writeWindow]
  split
  · split <;> rfl
  · rfl

/-- No access counts as a reset. -/
theorem hostAccess_epoch {p : Params} {s t : State} {a : Access} (h : hostAccess p s a = .next t) :
    t.epoch = s.epoch := by
  rcases hostAccess_cases h with ⟨size, off, -, -, rfl⟩ | ⟨size, off, v, -, -, rfl⟩ | ⟨d, rfl⟩
  · rw [hostRead]
    split <;> rfl
  · rw [hostWrite]
    split
    · exact writeReg_epoch s off v
    · exact writeWindow_epoch p s size off v
  · rfl

/-- No turn of the engine counts as a reset. -/
theorem engineTurn_epoch {s t : State} (h : engineTurn s = .next t) : t.epoch = s.epoch := by
  rcases engineTurn_cases h with ⟨-, i, -, hexec⟩ | ⟨-, -, rfl⟩ | ⟨-, rfl⟩
  · exact (exec_keepsHost hexec).epoch_eq
  · rfl
  · rfl

/-- A step that is no reset keeps the number of the reset. -/
theorem step_epoch {s t : State} (h : step s = .next t) (hreset : s.moves.head? ≠ some .reset) : t.epoch = s.epoch := by
  rcases step_cases h with ⟨hturn, -⟩ | ⟨a, -, hacc⟩ | ⟨hhead, -⟩
  · exact (engineTurn_epoch hturn :)
  · exact (hostAccess_epoch hacc :)
  · exact absurd hhead hreset

/-- A 1-byte read of the idle block at the offset of a buffer's byte. -/
theorem step_read_byte_idle {s : State} {rest : List Move} {a : Nat} {b : Buffer} (hidle : s.busy = false)
    (hmoves : s.moves = .access (.read .byte a) :: rest) (ha : bufferAt Config.params a = some b) :
    step s = .next { s with moves := rest, response := some ⟨true, some ((s.byteAt a).setWidth 32)⟩ } := by
  have hbounds : 0x1000 ≤ a ∧ a < 0x05000000 := by
    have hplaces := bufferAt_places ha
    omega
  have hidle' : State.busy { s with moves := rest } = false := hidle
  have hbytes : (List.range AccessSize.byte.bytes).map
      (fun j => readByteIdle Config.params { s with moves := rest } (a + j)) = [s.byteAt a] := by
    simp [AccessSize.bytes, readByteIdle, ha, State.byteAt]
  rw [step_read hmoves hbounds.2 (Nat.mod_one a) (.inl hbounds.1), hostRead_idle _ hidle', readIdle,
    if_neg (by omega), hbytes, laneWord_singleton]
  rfl

/-- Settles O2: the reset clears the storage and BUSY, and no other step changes the number that draws are made with. -/
theorem unwrittenBytesReadAsFreeValues : Obligations.UnwrittenBytesReadAsFreeValues := by
  refine ⟨fun s t rest hmoves hstep => ?_, fun s t rest j hmoves hj hstep => ?_,
    fun s t a hstep hreset hs ht => ?_⟩
  · rw [step_reset hmoves] at hstep
    cases hstep
    exact ⟨rfl, fun a => byteAt_of_unwritten rfl⟩
  · rw [step_reset hmoves] at hstep
    cases hstep
    have ha : bufferAt Config.params (0x04000000 + j) = some .f8out :=
      (bufferAt_iff _ _).mpr ⟨Nat.le_add_right _ _, Nat.add_lt_add_left (hj.trans_eq rfl) _⟩
    rw [step_read_byte_idle (busy_resetInput _) rfl ha, byteAt_of_unwritten rfl]
  · have hepoch := step_epoch hstep hreset
    rw [byteAt_of_unwritten hs, byteAt_of_unwritten ht, hepoch]
    exact ⟨rfl, rfl⟩

/-! ### The state after reset -/

/-- After reset nothing is stored, every reserved bit is 0 and nothing is reported (R176). -/
theorem registersOk_reset : State.reset.RegistersOk where
  memWf := rfl
  memStored := fun _ hc => absurd hc List.not_mem_nil
  ctrlReserved := rfl
  statusReserved := rfl
  validReserved := rfl
  fallbackReserved := rfl
  extremesReserved := by decide
  busyClean := fun _ => ⟨rfl, rfl, rfl, rfl⟩
  reported := .inl ⟨rfl, rfl⟩

/-- Settles O3: VALID is 0, so that the last two invariants claim nothing, and the registers are compared one by one. -/
theorem resetStateMeetsTheInvariants : Obligations.ResetStateMeetsTheInvariants :=
  ⟨registersOk_reset, resultsOk_of_valid_zero rfl, rangesOk_of_valid_zero rfl, rfl, rfl, rfl, rfl, by decide, rfl, rfl⟩

end Sys2Proof.Machine

/-! ## Settling O35, O36, O37, O42, O46 and O54: ill-formed accesses, and the host's accesses to the buffers' storage -/

namespace Sys2Proof.Machine

/-! ### Accesses without effect -/

/-- A misaligned access, or a narrow one to the register block, is not answered OKAY (R52, R53). -/
theorem accessOkay_eq_false {size : AccessSize} {a : Nat} (h : a % size.bytes ≠ 0 ∨ (a ≤ 0xFFF ∧ size ≠ .word)) :
    accessOkay size a = false := by
  obtain hmis | ⟨hreg, hnarrow⟩ := h
  · simp [accessOkay, hmis]
  · simp [accessOkay, hnarrow, show a < 0x1000 by omega]

/-- Settles O35: such an access lies in the block and is not answered OKAY, so the response is its only effect. -/
theorem illFormedAccessHasNoEffect : Obligations.IllFormedAccessHasNoEffect := by
  intro s rest size a v hblock hill
  have hdec : a < 0x05000000 := by omega
  have hnotOkay : accessOkay size a = false := accessOkay_eq_false hill
  constructor
  · intro hmoves
    rw [step_access hmoves]
    simp [hostAccess, offsetDecoded, hdec, hnotOkay, State.respondError]
  · intro hmoves
    rw [step_access hmoves]
    simp [hostAccess, offsetDecoded, hdec, hnotOkay, State.respondError]

/-- Settles O36: the offset is not decoded, whichever way the access goes. -/
theorem accessOutsideTheBlockIsRefused : Obligations.AccessOutsideTheBlockIsRefused := by
  intro s rest size a v houtside hmoves
  have hdec : ¬ a < 0x05000000 := by omega
  obtain hread | hwrite := hmoves
  · simp [step_access hread, hostAccess, offsetDecoded, hdec]
  · simp [step_access hwrite, hostAccess, offsetDecoded, hdec]

/-! ### Reads change nothing -/

/-- A read leaves everything but the response and the draw counter (R61). -/
theorem hostRead_frame (p : Params) (s : State) (size : AccessSize) (a : Nat) :
    hostRead p s size a =
      { s with response := (hostRead p s size a).response, draws := (hostRead p s size a).draws } := by
  rw [hostRead]
  split <;> rfl

/-- A read access is answered OKAY or ERROR, and changes nothing but the response and the draw counter. -/
theorem read_frame {p : Params} {s t : State} {size : AccessSize} {a : Nat}
    (h : hostAccess p s (.read size a) = .next t) : t = { s with response := t.response, draws := t.draws } := by
  obtain ⟨_, _, -, -, rfl⟩ | ⟨_, _, _, hwrite, -⟩ | ⟨d, rfl⟩ := hostAccess_cases h
  · exact hostRead_frame p s _ _
  · cases hwrite
  · rfl

/-- What an idle read answers: the data, or ERROR with 0 (R52 to R54). -/
def idleReadResponse (p : Params) (s : State) (size : AccessSize) (a : Nat) : Response :=
  if accessOkay size a then ⟨true, some (readIdle p s size a)⟩ else ⟨false, some 0⟩

/-- An idle read gives its answer and changes nothing else. -/
theorem read_idle_eq {p : Params} {s t : State} {size : AccessSize} {a : Nat} (hidle : s.busy = false)
    (h : hostAccess p s (.read size a) = .next t) : t = { s with response := some (idleReadResponse p s size a) } := by
  simp only [hostAccess] at h
  split at h
  · split at h
    · rename_i hok
      cases h
      rw [idleReadResponse, if_pos hok]
      exact hostRead_idle p hidle size a
    · rename_i hnotOkay
      cases h
      rw [idleReadResponse, if_neg hnotOkay]
      rfl
  · cases h

/-- The answer of an idle read is that of the registers and the storage, whatever moves are to come and whatever was
answered before. -/
theorem idleReadResponse_congr (p : Params) (s : State) (ms : List Move) (r : Option Response) (size : AccessSize)
    (a : Nat) : idleReadResponse p { s with moves := ms, response := r } size a = idleReadResponse p s size a := by
  have hreg : ∀ n : RegName, State.reg { s with moves := ms, response := r } n = s.reg n := fun n => by cases n <;> rfl
  have hregRead : readRegIdle { s with moves := ms, response := r } a = readRegIdle s a := by
    simp only [readRegIdle, hreg]
  rw [idleReadResponse, idleReadResponse, readIdle, readIdle, hregRead]
  rfl

/-- A step that is an idle read gives its answer and changes nothing else. -/
theorem step_read_idle {s t : State} {rest : List Move} {size : AccessSize} {a : Nat} (hstep : step s = .next t)
    (hidle : s.busy = false) (hmoves : s.moves = .access (.read size a) :: rest) :
    t = { s with moves := rest, response := some (idleReadResponse Config.params s size a) } := by
  have hidle' : State.busy { s with moves := rest } = false := hidle
  rw [step_access hmoves] at hstep
  rw [read_idle_eq hidle' hstep, ← idleReadResponse_congr _ s rest s.response]

/-- Settles O37: the frame of a read access, and the answer of an idle one as a function of what no read changes. -/
theorem readsHaveNoSideEffect : Obligations.ReadsHaveNoSideEffect := by
  constructor
  · intro s t rest size a hmoves hstep
    refine ⟨?_, fun hidle => ?_⟩
    · rw [step_access hmoves] at hstep
      exact read_frame hstep
    · rw [step_read_idle hstep hidle hmoves]
  · intro s t u rest size a hidle hmoves hfirst hsecond
    obtain rfl := step_read_idle hfirst hidle hmoves
    rw [step_read_idle hsecond hidle rfl]
    exact congrArg some (idleReadResponse_congr _ s _ _ size a)

/-! ### The lanes of a data word -/

/-- Concatenation in arithmetic. -/
theorem toNat_append_eq_add {m n : Nat} (x : BitVec m) (y : BitVec n) : (x ++ y).toNat = x.toNat * 2 ^ n + y.toNat := by
  rw [BitVec.toNat_append, ← Nat.shiftLeft_add_eq_or_of_lt y.isLt, Nat.shiftLeft_eq]

theorem toNat_wordOfBytes (b0 b1 b2 b3 : Byte) :
    (wordOfBytes b0 b1 b2 b3).toNat = b0.toNat + 256 * b1.toNat + 65536 * b2.toNat + 16777216 * b3.toNat := by
  simp only [wordOfBytes, toNat_append_eq_add]
  omega

/-- An access is at most 4 bytes wide (R50). -/
theorem accessSize_bytes_le (size : AccessSize) : size.bytes ≤ 4 := by cases size <;> decide

/-- Lane j of a data word is byte j (R51). -/
theorem laneWord_lane (bs : List Byte) {j : Nat} (hj : j < 4) : (laneWord bs).extractLsb' (8 * j) 8 = bs.getD j 0 := by
  have hb0 := (bs.getD 0 0).isLt
  have hb1 := (bs.getD 1 0).isLt
  have hb2 := (bs.getD 2 0).isLt
  have hb3 := (bs.getD 3 0).isLt
  refine BitVec.eq_of_toNat_eq ?_
  rw [BitVec.extractLsb'_toNat, laneWord, toNat_wordOfBytes, Nat.shiftRight_eq_div_pow]
  interval_cases j <;> omega

/-- Byte j of a bus word is its lane j (R51). -/
theorem wordBytes_getElem (v : Word) {j : Nat} (hj : j < 4) : (wordBytes v)[j]'hj = v.extractLsb' (8 * j) 8 := by
  interval_cases j <;> rfl

/-- The low bytes of a bus word, in lanes again, are the word modulo their width: in arithmetic, for each width. -/
theorem laneWord_take_wordBytes (v : Word) (size : AccessSize) :
    laneWord ((wordBytes v).take size.bytes) = BitVec.ofNat 32 (v.toNat % 2 ^ (8 * size.bytes)) := by
  have hv := v.isLt
  refine BitVec.eq_of_toNat_eq ?_
  cases size <;>
    simp [laneWord, toNat_wordOfBytes, wordBytes, AccessSize.bytes, BitVec.extractLsb'_toNat,
      Nat.shiftRight_eq_div_pow] <;> omega

/-! ### Storage in the windows -/

/-- The windows below their capacity: HIST to LUT, RAW, F16, F8IN and F8OUT (R56). -/
def WindowStored (a : Nat) : Prop :=
  (0x1000 ≤ a ∧ a < 0x3100) ∨ (0x01000000 ≤ a ∧ a < 0x01000000 + 655360) ∨
    (0x02000000 ≤ a ∧ a < 0x02000000 + 655360) ∨ (0x03000000 ≤ a ∧ a < 0x03000000 + 327680) ∨
    (0x04000000 ≤ a ∧ a < 0x04000000 + 327680)

/-- The windows that the host writes, below their capacity: RAW and F8IN (R56). -/
def WindowWritable (a : Nat) : Prop :=
  (0x01000000 ≤ a ∧ a < 0x01000000 + 655360) ∨ (0x03000000 ≤ a ∧ a < 0x03000000 + 327680)

theorem WindowStored.bounds {a : Nat} (h : WindowStored a) : 0x1000 ≤ a ∧ a < 0x05000000 := by
  unfold WindowStored at h
  omega

theorem WindowWritable.stored {a : Nat} (h : WindowWritable a) : WindowStored a := by
  unfold WindowWritable at h
  unfold WindowStored
  omega

/-- An aligned access that starts in storage stays in it: its ends are multiples of 4. -/
theorem WindowStored.add {size : AccessSize} {a j : Nat} (h : WindowStored a) (halign : a % size.bytes = 0)
    (hj : j < size.bytes) : WindowStored (a + j) := by
  unfold WindowStored at h ⊢
  cases size <;> simp only [AccessSize.bytes] at halign hj <;> omega

/-- An aligned access that starts where the host may write stays there: the ends are multiples of 4. -/
theorem WindowWritable.add {size : AccessSize} {a j : Nat} (h : WindowWritable a) (halign : a % size.bytes = 0)
    (hj : j < size.bytes) : WindowWritable (a + j) := by
  unfold WindowWritable at h ⊢
  cases size <;> simp only [AccessSize.bytes] at halign hj <;> omega

/-- Every byte of the windows below their capacity is some buffer's: the tables' buffers leave no gap (R56). -/
theorem bufferAt_of_stored {a : Nat} (h : WindowStored a) : ∃ b, bufferAt Config.params a = some b := by
  cases hb : bufferAt Config.params a with
  | some b => exact ⟨b, rfl⟩
  | none =>
    have hout := bufferAt_none hb
    have hhist := hout .hist
    have hmhist := hout .mhist
    have hpdf := hout .pdf
    have hpdfw := hout .pdfw
    have hcdfw := hout .cdfw
    have hlut := hout .lut
    have hraw := hout .raw
    have hf16 := hout .f16
    have hf8in := hout .f8in
    have hf8out := hout .f8out
    simp only [Buffer.base, Buffer.bytes, Buffer.elemBytes, Buffer.capacity, Config.params]
      at hhist hmhist hpdf hpdfw hcdfw hlut hraw hf16 hf8in hf8out
    unfold WindowStored at h
    omega

theorem hostWritableAt_of_writable {a : Nat} (h : WindowWritable a) : hostWritableAt Config.params a = true := by
  obtain hraw | hf8in := h
  · rw [hostWritableAt, (bufferAt_iff a .raw).mpr hraw]
    rfl
  · rw [hostWritableAt, (bufferAt_iff a .f8in).mpr hf8in]
    rfl

/-! ### Idle reads of storage -/

/-- The data of an idle aligned read of storage is the stored bytes in lanes (R51, R57 to R59). -/
theorem readIdle_stored {size : AccessSize} {a : Nat} (s : State) (halign : a % size.bytes = 0) (h : WindowStored a) :
    readIdle Config.params s size a = laneWord (s.mem.read s.epoch a size.bytes) := by
  have hbyte : ∀ j ∈ List.range size.bytes, readByteIdle Config.params s (a + j) = s.mem.byteAt s.epoch (a + j) := by
    intro j hj
    obtain ⟨b, hb⟩ := bufferAt_of_stored (h.add halign (List.mem_range.mp hj))
    rw [readByteIdle, hb]
  rw [readIdle, if_neg (by have hb := h.bounds; omega), List.map_congr_left hbyte, read_eq_map,
    offsetsFrom, List.map_map]
  rfl

/-- A step that is an idle aligned read of storage, of any width. -/
theorem step_read_stored {s : State} {rest : List Move} {size : AccessSize} {a : Nat} (hidle : s.busy = false)
    (hmoves : s.moves = .access (.read size a) :: rest) (halign : a % size.bytes = 0) (h : WindowStored a) :
    step s = .next { s with moves := rest,
                            response := some ⟨true, some (laneWord (s.mem.read s.epoch a size.bytes))⟩ } := by
  obtain ⟨hlo, hhi⟩ := h.bounds
  have hidle' : State.busy { s with moves := rest } = false := hidle
  rw [step_read hmoves hhi halign (.inl hlo), hostRead_idle _ hidle', readIdle_stored _ halign h]
  rfl

/-- The sample at an offset: two bytes, the first the low one (R58). -/
def State.halfAt (s : State) (a : Nat) : Half := s.byteAt (a + 1) ++ s.byteAt a

theorem toNat_halfAt (s : State) (a : Nat) :
    (s.halfAt a).toNat = (s.byteAt a).toNat + 256 * (s.byteAt (a + 1)).toNat := by
  rw [State.halfAt, toNat_append_eq_add]
  omega

theorem f16At_eq (s : State) (i : Nat) : s.f16At i = (s.halfAt (0x02000000 + 2 * i)).toNat := rfl

theorem laneWord_read_byte (s : State) (a : Nat) :
    laneWord (s.mem.read s.epoch a AccessSize.byte.bytes) = BitVec.ofNat 32 (s.byteAt a).toNat := by
  rw [read_eq_map, BitVec.ofNat_toNat]
  exact laneWord_singleton (s.byteAt a)

theorem laneWord_read_half (s : State) (a : Nat) :
    laneWord (s.mem.read s.epoch a AccessSize.half.bytes) = BitVec.ofNat 32 (s.halfAt a).toNat := by
  have hlt := (s.halfAt a).isLt
  rw [read_eq_map]
  refine BitVec.eq_of_toNat_eq ?_
  show (wordOfBytes (s.byteAt a) (s.byteAt (a + 1)) 0 0).toNat = _
  rw [toNat_wordOfBytes, BitVec.toNat_ofNat, Nat.mod_eq_of_lt (by omega), toNat_halfAt]
  rfl

theorem laneWord_read_word (s : State) (a : Nat) :
    laneWord (s.mem.read s.epoch a AccessSize.word.bytes) = s.wordAt a := by
  rw [read_eq_map]
  rfl

/-- A word is two samples, the first in the low half (R58). -/
theorem wordAt_eq_halves (s : State) (a : Nat) :
    s.wordAt a = BitVec.ofNat 32 ((s.halfAt (a + 2)).toNat * 65536 + (s.halfAt a).toNat) := by
  have hlo := (s.halfAt a).isLt
  have hhi := (s.halfAt (a + 2)).isLt
  refine BitVec.eq_of_toNat_eq ?_
  rw [BitVec.toNat_ofNat, Nat.mod_eq_of_lt (by omega)]
  show (wordOfBytes (s.byteAt a) (s.byteAt (a + 1)) (s.byteAt (a + 2)) (s.byteAt (a + 2 + 1))).toNat = _
  rw [toNat_wordOfBytes, toNat_halfAt, toNat_halfAt]
  omega

/-- A step that is an idle 1-byte read of storage. -/
theorem step_read_stored_byte {s : State} {rest : List Move} {a : Nat} (hidle : s.busy = false)
    (hmoves : s.moves = .access (.read .byte a) :: rest) (h : WindowStored a) :
    step s = .next { s with moves := rest, response := some ⟨true, some (BitVec.ofNat 32 (s.byteAt a).toNat)⟩ } := by
  rw [step_read_stored hidle hmoves (Nat.mod_one a) h, laneWord_read_byte]

/-- A step that is an idle aligned 4-byte read of storage. -/
theorem step_read_stored_word {s : State} {rest : List Move} {a : Nat} (hidle : s.busy = false)
    (hmoves : s.moves = .access (.read .word a) :: rest) (halign : a % 4 = 0) (h : WindowStored a) :
    step s = .next { s with moves := rest, response := some ⟨true, some (s.wordAt a)⟩ } := by
  rw [step_read_stored hidle hmoves halign h, laneWord_read_word]

/-- Settles O46: the sample's bytes in lanes are the sample, and a word is two of them. -/
theorem f16WindowReadsReturnSamples : Obligations.F16WindowReadsReturnSamples := by
  intro s rest i hidle
  constructor
  · intro hi hmoves
    have hstored : WindowStored (0x02000000 + 2 * i) := by unfold WindowStored; omega
    refine ⟨_, step_read_stored hidle hmoves (by simp only [AccessSize.bytes]; omega) hstored, ?_⟩
    rw [laneWord_read_half, f16At_eq]
  · intro hi hmoves
    have hstored : WindowStored (0x02000000 + 4 * i) := by unfold WindowStored; omega
    refine ⟨_, step_read_stored_word hidle hmoves (by omega) hstored, ?_⟩
    rw [wordAt_eq_halves, f16At_eq, f16At_eq, show 0x02000000 + 2 * (2 * i + 1) = 0x02000000 + 4 * i + 2 by omega,
      show 0x02000000 + 2 * (2 * i) = 0x02000000 + 4 * i by omega]

/-! ### Idle reads of an element, window by window -/

/-- A step that is an idle 4-byte read of an element of 32 bits (R59). -/
theorem step_read_word_element {s : State} {rest : List Move} {a : Nat} (hidle : s.busy = false)
    (hmoves : s.moves = .access (.read .word a) :: rest) (halign : a % 4 = 0) (h : WindowStored a) :
    step s = .next { s with moves := rest, response := some ⟨true, some (BitVec.ofNat 32 (s.wordAt a).toNat)⟩ } := by
  rw [step_read_stored_word hidle hmoves halign h, BitVec.ofNat_toNat, BitVec.setWidth_eq]

/-- A step that is an idle 4-byte read of the low half of an element of 64 bits (R59). -/
theorem step_read_dword_lo {s : State} {rest : List Move} {a : Nat} (hidle : s.busy = false)
    (hmoves : s.moves = .access (.read .word a) :: rest) (halign : a % 4 = 0) (h : WindowStored a) :
    step s = .next { s with moves := rest, response := some ⟨true, some ((s.dwordAt a).extractLsb' 0 32)⟩ } := by
  rw [step_read_stored_word hidle hmoves halign h, State.dwordAt, BitVec.extractLsb'_append_eq_right]

/-- A step that is an idle 4-byte read of the high half of an element of 64 bits (R59). -/
theorem step_read_dword_hi {s : State} {rest : List Move} {a : Nat} (hidle : s.busy = false)
    (hmoves : s.moves = .access (.read .word (a + 4)) :: rest) (halign : a % 4 = 0) (h : WindowStored (a + 4)) :
    step s = .next { s with moves := rest, response := some ⟨true, some ((s.dwordAt a).extractLsb' 32 32)⟩ } := by
  rw [step_read_stored_word hidle hmoves (by omega) h, State.dwordAt, BitVec.extractLsb'_append_eq_left]

/-- Settles O54: window by window at the element's width, and at any width the lanes of the bytes read. -/
theorem idleWindowReadsReturnTheElement : Obligations.IdleWindowReadsReturnTheElement := by
  intro s rest hidle
  refine ⟨fun i hi => ?_, fun i hi hmoves => ?_, fun i hi => ⟨fun hmoves => ?_, fun hmoves => ?_⟩,
    fun size a hmoves halign hwindow => ?_⟩
  · exact ⟨fun hmoves => step_read_word_element hidle hmoves (by omega) (.inl (by omega)),
      fun hmoves => step_read_word_element hidle hmoves (by omega) (.inl (by omega)),
      fun hmoves => step_read_dword_lo hidle hmoves (by omega) (.inl (by omega)),
      fun hmoves => step_read_dword_hi hidle hmoves (by omega) (.inl (by omega)),
      fun hmoves => step_read_dword_lo hidle hmoves (by omega) (.inl (by omega)),
      fun hmoves => step_read_dword_hi hidle hmoves (by omega) (.inl (by omega)),
      fun hmoves => step_read_dword_lo hidle hmoves (by omega) (.inl (by omega)),
      fun hmoves => step_read_dword_hi hidle hmoves (by omega) (.inl (by omega)),
      fun hmoves => step_read_stored_byte hidle hmoves (.inl (by omega))⟩
  · exact step_read_stored_byte hidle hmoves (.inr (.inl (by omega)))
  · exact step_read_stored_byte hidle hmoves (.inr (.inr (.inr (.inl (by omega)))))
  · exact step_read_stored_byte hidle hmoves (.inr (.inr (.inr (.inr (by omega)))))
  · refine ⟨_, step_read_stored hidle hmoves halign hwindow, fun j hj => ?_⟩
    rw [BitVec.setWidth_ushiftRight_eq_extractLsb, laneWord_lane _ (hj.trans_le (accessSize_bytes_le size)),
      List.getD_eq_getElem?_getD, read_getElem_option _ _ _ _ _ hj]
    rfl

/-! ### Idle writes of storage -/

/-- After a host write its offsets read as its bytes, where all its offsets are host-writable. -/
theorem byteAt_storeHostBytes_inside {p : Params} {bs : List Byte} {a : Nat} (m : Memory) (e : Nat)
    (hw : ∀ j < bs.length, hostWritableAt p (a + j) = true) {j : Nat} (hj : j < bs.length) :
    (storeHostBytes p bs a m).byteAt e (a + j) = bs[j] := by
  rw [Memory.byteAt, written_storeHostBytes, if_pos ⟨by omega, by omega, hw j hj⟩, Nat.add_sub_cancel_left,
    List.getElem?_eq_getElem hj]
  rfl

/-- A host write keeps every byte that it does not cover. -/
theorem byteAt_storeHostBytes_outside (p : Params) (bs : List Byte) (m : Memory) (e : Nat) {a x : Nat}
    (hx : x < a ∨ a + bs.length ≤ x) : (storeHostBytes p bs a m).byteAt e x = m.byteAt e x := by
  rw [Memory.byteAt, written_storeHostBytes, if_neg (by omega)]
  rfl

theorem read_storeHostBytes_same {p : Params} {bs : List Byte} {a : Nat} (m : Memory) (e : Nat)
    (hw : ∀ j < bs.length, hostWritableAt p (a + j) = true) : (storeHostBytes p bs a m).read e a bs.length = bs :=
  List.ext_getElem (by simp) fun j h1 h2 => by rw [read_getElem, byteAt_storeHostBytes_inside m e hw h2]

@[simp] theorem take_wordBytes_length (v : Word) (size : AccessSize) :
    ((wordBytes v).take size.bytes).length = size.bytes := by
  cases size <;> rfl

/-- A step that is an idle aligned write where the host may write. -/
theorem step_write_writable {s : State} {rest : List Move} {size : AccessSize} {a : Nat} {v : Word}
    (hidle : s.busy = false) (hmoves : s.moves = .access (.write size a v) :: rest) (halign : a % size.bytes = 0)
    (h : WindowWritable a) :
    step s = .next { s with moves := rest, response := some ⟨true, none⟩,
                            mem := storeHostBytes Config.params ((wordBytes v).take size.bytes) a s.mem } := by
  obtain ⟨hlo, hhi⟩ := h.stored.bounds
  have hidle' : State.busy { s with moves := rest } = false := hidle
  rw [step_write hmoves hhi halign (.inl hlo), hostWrite, if_neg (by omega), writeWindow, hidle']
  rfl

/-- Settles O42: the bytes of the data are stored at the offsets of the access, and read back in their lanes. -/
theorem windowWriteThenReadReturnsTheData : Obligations.WindowWriteThenReadReturnsTheData := by
  intro s rest size a v hidle hmoves halign hwindow
  have hwritable : WindowWritable a := hwindow
  have hlen := take_wordBytes_length v size
  have hall : ∀ j < ((wordBytes v).take size.bytes).length, hostWritableAt Config.params (a + j) = true :=
    fun j hj => hostWritableAt_of_writable (hwritable.add halign (hj.trans_eq hlen))
  refine ⟨_, _, step_write_writable hidle hmoves halign hwritable,
    step_read_stored hidle rfl halign hwritable.stored, fun j hj => ?_, fun x hx => ?_, rfl, ?_⟩
  · rw [BitVec.setWidth_ushiftRight_eq_extractLsb]
    refine (byteAt_storeHostBytes_inside s.mem s.epoch hall (hj.trans_eq hlen.symm)).trans ?_
    rw [List.getElem_take]
    exact wordBytes_getElem v (hj.trans_le (accessSize_bytes_le size))
  · exact byteAt_storeHostBytes_outside _ _ s.mem s.epoch (by rwa [hlen])
  · have hback := read_storeHostBytes_same s.mem s.epoch hall
    rw [hlen] at hback
    rw [hback, laneWord_take_wordBytes]

end Sys2Proof.Machine

/-! ## Settling O5 and O6: the command words, written out and in full -/

namespace Sys2Proof

/-! ### The fields of a command word -/

/-- A word is its RESV above its OPCODE (R72). -/
theorem resvField_append_opcodeField (w : Word) : (resvField w ++ opcodeField w : Word) = w := by
  exact (BitVec.extractLsb'_append_extractLsb'_eq_extractLsb' rfl).trans BitVec.extractLsb'_eq_self

@[simp] theorem resvField_encode (i : Instr) : resvField (encode i) = 0 := BitVec.extractLsb'_append_eq_left

@[simp] theorem opcodeField_encode (i : Instr) : opcodeField (encode i) = i.opcode :=
  BitVec.extractLsb'_append_eq_right

/-- The word of a command is the one with RESV 0 and the command's OPCODE. -/
theorem encode_eq_iff (i : Instr) (w : Word) : encode i = w ↔ resvField w = 0 ∧ opcodeField w = i.opcode := by
  constructor
  · rintro rfl
    exact ⟨resvField_encode i, opcodeField_encode i⟩
  · rintro ⟨hresv, hopcode⟩
    rw [← resvField_append_opcodeField w, hresv, hopcode, encode]

/-- RESV is what a shift by 8 leaves of the word. -/
theorem ushiftRight_eq_zero_iff_resvField (w : Word) : w >>> 8 = 0 ↔ resvField w = 0 := by
  have hw : w.toNat < 2 ^ 32 := w.isLt
  simp only [resvField, BitVec.toNat_eq, BitVec.toNat_ushiftRight, BitVec.extractLsb'_toNat, Nat.shiftRight_eq_div_pow,
    BitVec.ofNat_eq_ofNat, BitVec.toNat_ofNat]
  omega

/-- OPCODE is what the mask 0xFF leaves of the word. -/
theorem and_mask_eq_opcodeField (w : Word) : w &&& 0xFF = (opcodeField w).setWidth 32 := by
  apply BitVec.eq_of_toNat_eq
  rw [BitVec.toNat_and, BitVec.toNat_setWidth_of_le (by decide), opcodeField, BitVec.extractLsb'_toNat]
  exact Nat.and_two_pow_sub_one_eq_mod w.toNat 8

/-! ### The opcode map -/

theorem instrOfOpcode_opcode (i : Instr) : instrOfOpcode i.opcode = some i := by cases i <;> rfl

theorem opcode_toNat_le (i : Instr) : i.opcode.toNat ≤ 9 := by cases i <;> decide

/-- The opcode map has a row for every OPCODE up to 9 (R73). -/
theorem exists_opcode_eq {op : Byte} (h : op.toNat ≤ 9) : ∃ i : Instr, op = i.opcode := by
  have hop : op = BitVec.ofNat 8 op.toNat := by simp
  generalize op.toNat = n at h hop
  subst hop
  match n, h with
  | 0, _ => exact ⟨.nop, rfl⟩
  | 1, _ => exact ⟨.loadBe, rfl⟩
  | 2, _ => exact ⟨.loadNative, rfl⟩
  | 3, _ => exact ⟨.compress, rfl⟩
  | 4, _ => exact ⟨.hist, rfl⟩
  | 5, _ => exact ⟨.tone, rfl⟩
  | 6, _ => exact ⟨.remap, rfl⟩
  | 7, _ => exact ⟨.enhance, rfl⟩
  | 8, _ => exact ⟨.pipeline, rfl⟩
  | 9, _ => exact ⟨.invalidate, rfl⟩

theorem exists_opcode_eq_iff (op : Byte) : (∃ i : Instr, op = i.opcode) ↔ op.toNat ≤ 9 :=
  ⟨fun ⟨i, hi⟩ => hi ▸ opcode_toNat_le i, exists_opcode_eq⟩

theorem instrOfOpcode_eq_none {op : Byte} (h : 9 < op.toNat) : instrOfOpcode op = none := by
  unfold instrOfOpcode
  split
  case h_11 => rfl
  all_goals omega

/-- The opcode map has one row for each command, and a row only at its OPCODE. -/
theorem instrOfOpcode_eq_some_iff (op : Byte) (i : Instr) : instrOfOpcode op = some i ↔ op = i.opcode := by
  constructor
  · intro h
    have hle : op.toNat ≤ 9 := by
      by_contra hgt
      rw [instrOfOpcode_eq_none (by omega)] at h
      cases h
    obtain ⟨j, rfl⟩ := exists_opcode_eq hle
    rw [instrOfOpcode_opcode, Option.some.injEq] at h
    rw [h]
  · rintro rfl
    exact instrOfOpcode_opcode i

/-! ### What the decoder answers -/

theorem decodeWord_of_resvField_ne_zero {w : Word} (h : resvField w ≠ 0) : decodeWord w = .error .reservedNonzero :=
  if_pos h

theorem decodeWord_of_opcodeField_gt {w : Word} (hresv : resvField w = 0) (hop : 9 < (opcodeField w).toNat) :
    decodeWord w = .error .unknownOpcode := by
  rw [decodeWord, if_neg (not_not_intro hresv), instrOfOpcode_eq_none hop]

theorem decodeWord_eq_ok_iff (w : Word) (i : Instr) :
    decodeWord w = .ok i ↔ resvField w = 0 ∧ instrOfOpcode (opcodeField w) = some i := by
  by_cases hresv : resvField w = 0#24
  · cases hop : instrOfOpcode (opcodeField w) <;> simp [decodeWord, hresv, hop]
  · simp [decodeWord_of_resvField_ne_zero hresv, hresv]

/-- The decoder inverts the encoder: a word decodes to a command exactly if it is the command's word. -/
theorem decode_wordBytes_eq_ok_iff (w : Word) (i : Instr) : decode (wordBytes w) = .ok i ↔ encode i = w := by
  rw [Machine.decode_wordBytes, decodeWord_eq_ok_iff, instrOfOpcode_eq_some_iff, encode_eq_iff]

theorem decode_wordBytes_encode (i : Instr) : decode (wordBytes (encode i)) = .ok i :=
  (decode_wordBytes_eq_ok_iff _ i).mpr rfl

/-- The words of the ten commands are those of R84's test. -/
theorem exists_encode_eq_iff (w : Word) : (∃ i, encode i = w) ↔ w >>> 8 = 0 ∧ (w &&& 0xFF).toNat ≤ 9 := by
  have hop : (w &&& 0xFF).toNat = (opcodeField w).toNat := by
    rw [and_mask_eq_opcodeField, BitVec.toNat_setWidth_of_le (by decide)]
  rw [ushiftRight_eq_zero_iff_resvField, hop, ← exists_opcode_eq_iff]
  simp only [encode_eq_iff, exists_and_left]

/-- Settles O6: decoding inverts encoding on every word, so the legal words are the ten encodings, and R84's test is
RESV = 0 with an OPCODE of the map. -/
theorem decoderAcceptsExactlyTheLegalWords : Obligations.DecoderAcceptsExactlyTheLegalWords := by
  refine ⟨fun w => ?_, fun w i hdecode => ?_, fun i _ => decode_wordBytes_encode i⟩
  · simp only [decode_wordBytes_eq_ok_iff, exists_encode_eq_iff]
  · have hw := (decode_wordBytes_eq_ok_iff w i).mp hdecode
    exact ⟨hw, by rw [← hw, and_mask_eq_opcodeField, opcodeField_encode]⟩

/-- Settles O5: the first four words are encodings; 0x0A has no row in the opcode map, and the other two have RESV ≠ 0. -/
theorem writtenOutWordsDecode : Obligations.WrittenOutWordsDecode :=
  ⟨decode_wordBytes_encode .loadBe, decode_wordBytes_encode .loadNative, decode_wordBytes_encode .tone,
    decode_wordBytes_encode .invalidate, decodeWord_of_opcodeField_gt (by decide) (by decide),
    decodeWord_of_resvField_ne_zero (by decide), decodeWord_of_resvField_ne_zero (by decide)⟩

end Sys2Proof

/-! ## Settling O12 and O13: the two loaders, as one stage with a rule for its samples -/

namespace Sys2Proof.Machine

/-! ### The stage that the two loaders share -/

/-- A loader: the checks of R85 in their order, then F16 filled by a rule for the two bytes of a sample (R86, R90). -/
def stageLoad (opcode : Byte) (sample : Byte → Byte → Half) : Stage := fun s =>
  if s.dimsOk Config.params then
    if s.rawLen.toNat < 2 * s.pixels then .error ⟨.ioError, opcode, 0⟩
    else if 2 * s.pixels < s.rawLen.toNat then .error ⟨.invalidDimensions, opcode, 0⟩
    else .ok (commitF16 (samplesOf sample s.rawBytes) s)
  else .error ⟨.invalidDimensions, opcode, 0⟩

theorem exec_loadBe_eq (s : State) : exec .loadBe s = .next (runCommand [stageLoad 0x01 loadBeSample] s) := by
  rw [exec_eq_runCommand, stagesOf, show stageLoadBe Config.params = stageLoad 0x01 loadBeSample from
    funext (stageLoadBe_eq Config.params)]

theorem exec_loadNative_eq (s : State) :
    exec .loadNative s = .next (runCommand [stageLoad 0x02 (loadNativeSample Config.params)] s) := by
  rw [exec_eq_runCommand, stagesOf, show stageLoadNative Config.params = stageLoad 0x02 (loadNativeSample Config.params)
    from funext (stageLoadNative_eq Config.params)]

/-! ### The errors of a loader -/

/-- A stage's error outside the steps of TONE: STATUS takes the code, and ERRINFO is the stage's opcode (R158, R164). -/
theorem raise_eq_failed (s : State) (code : ErrCode) (stage : Byte) :
    s.raise ⟨code, stage, 0⟩ = s.failed code.number.toNat (stage.setWidth 32) := by
  have hinfo : ((0 : BitVec 16) ++ (0 : Byte) ++ stage : Word) = stage.setWidth 32 := by
    refine BitVec.eq_of_toNat_eq ?_
    rw [toNat_append_eq_add, BitVec.toNat_setWidth_of_le (by decide)]
    exact Nat.zero_add _
  rw [State.raise, State.failed, statusFailed_eq, hinfo]

section
variable {opcode : Byte} {sample : Byte → Byte → Half} {s : State}

theorem load_illegal_geometry (h : ¬ s.GeometryLegal) :
    runCommand [stageLoad opcode sample] s = s.failed 4 (opcode.setWidth 32) :=
  (runCommand_cons_error (if_neg (mt (dimsOk_iff s).mp h))).trans (raise_eq_failed s .invalidDimensions opcode)

theorem load_short_stream (h : s.GeometryLegal) (hlen : s.rawLen.toNat < 2 * s.pixels) :
    runCommand [stageLoad opcode sample] s = s.failed 1 (opcode.setWidth 32) := by
  have hstage : stageLoad opcode sample s = .error ⟨.ioError, opcode, 0⟩ := by
    rw [stageLoad, if_pos ((dimsOk_iff s).mpr h), if_pos hlen]
  exact (runCommand_cons_error hstage).trans (raise_eq_failed s .ioError opcode)

theorem load_long_stream (h : s.GeometryLegal) (hlen : 2 * s.pixels < s.rawLen.toNat) :
    runCommand [stageLoad opcode sample] s = s.failed 4 (opcode.setWidth 32) := by
  have hstage : stageLoad opcode sample s = .error ⟨.invalidDimensions, opcode, 0⟩ := by
    rw [stageLoad, if_pos ((dimsOk_iff s).mpr h), if_neg (by omega), if_pos hlen]
  exact (runCommand_cons_error hstage).trans (raise_eq_failed s .invalidDimensions opcode)

/-! ### A load that commits -/

theorem load_commits (h : s.GeometryLegal) (hlen : s.rawLen.toNat = 2 * s.pixels) :
    runCommand [stageLoad opcode sample] s = (commitF16 (samplesOf sample s.rawBytes) s).complete := by
  refine runCommand_single_ok ?_
  rw [stageLoad, if_pos ((dimsOk_iff s).mpr h), if_neg (by omega), if_neg (by omega)]

/-- RAW[0 .. 2N-1] are the bytes of the RAW window. -/
theorem rawBytes_getElem (s : State) (j : Nat) (h : j < 2 * s.pixels) : s.rawBytes[j]? = some (s.rawAt j) :=
  read_getElem_option _ _ _ _ _ h

theorem samplesOf_rawBytes_getElem {i : Nat} (h : i < s.pixels) :
    (samplesOf sample s.rawBytes)[i]? = some (sample (s.rawAt (2 * i)) (s.rawAt (2 * i + 1))) := by
  rw [samplesOf_getElem, rawBytes_getElem s _ (by omega), rawBytes_getElem s _ (by omega)]
  rfl

theorem byteAt_commitF16_outside {xs : List Half} {a : Nat}
    (h : a < 0x02000000 ∨ 0x02000000 + 2 * xs.length ≤ a) : (commitF16 xs s).byteAt a = s.byteAt a := by
  refine byteAt_write_outside s.mem s.epoch 0x02000000 a (xs.flatMap halfBytes) ?_
  rwa [flatMap_length_const _ 2 halfBytes_length]

/-- A load of 2N bytes: sample i is what the rule gives on RAW[2i] and RAW[2i+1], and beside F16[0 .. N-1] only VALID
and STATUS change (R86, R90, R92). -/
theorem load_result (h : s.GeometryLegal) (hlen : s.rawLen.toNat = 2 * s.pixels) :
    ∃ t, runCommand [stageLoad opcode sample] s = t ∧
      (∀ i < s.pixels, t.f16At i = (sample (s.rawAt (2 * i)) (s.rawAt (2 * i + 1))).toNat) ∧
      (∀ a, a < 0x02000000 ∨ 0x02000000 + 2 * s.pixels ≤ a → t.byteAt a = s.byteAt a) ∧
      t = { s with mem := t.mem, valid := s.valid ||| 0x00000001, status := completedStatus s.status } := by
  refine ⟨_, load_commits h hlen, fun i hi => ?_, fun a ha => ?_, rfl⟩
  · exact f16At_commitF16 _ s i _ (samplesOf_rawBytes_getElem hi)
  · refine byteAt_commitF16_outside ?_
    rwa [samplesOf_length sample s.pixels _ (rawBytes_length s)]

end

/-! ### The samples in closed form -/

/-- R88: the clamp of the signed word plus 8192, by the four ranges of the unsigned word. -/
theorem loadBeSample_closed (hi lo : Byte) : (loadBeSample hi lo).toNat = loadBeClosed (hi ++ lo : Half).toNat := by
  rw [loadBeSample, loadBeClosed]
  generalize (hi ++ lo : Half) = w
  have hw : w.toNat < 65536 := w.isLt
  have hsigned : (w.toNat < 32768 ∧ w.toInt = w.toNat) ∨ (32768 ≤ w.toNat ∧ w.toInt = w.toNat - 65536) := by
    rw [BitVec.toInt_eq_toNat_cond]
    split <;> omega
  split
  · have hzero : 0x7FFF < w.toNat ∧ w.toNat ≤ 0xE000 := by omega
    rw [if_neg (by omega), if_neg (by omega), if_pos hzero.2]
    rfl
  · split
    · have hclamped : 0x1FFF < w.toNat ∧ w.toNat ≤ 0x7FFF := by omega
      rw [if_neg (by omega), if_pos hclamped.2]
      rfl
    · rw [BitVec.toNat_ofInt]
      have hwithin : w.toNat ≤ 0x1FFF ∨ 0xE000 < w.toNat := by omega
      obtain hlow | hhigh := hwithin
      · rw [if_pos hlow]
        omega
      · rw [if_neg (by omega), if_neg (by omega), if_neg (by omega)]
        omega

/-- R91: with the default NATIVE_CLAMP a native sample is its word or 16383, the less of the two. -/
theorem loadNativeSample_toNat (lo hi : Byte) :
    (loadNativeSample Config.params lo hi).toNat = min (hi ++ lo : Half).toNat 16383 := by
  simp only [loadNativeSample, show Config.params.nativeClamp = true from rfl, if_true]
  split
  · rename_i hover
    rw [Nat.min_eq_right hover.le]
    rfl
  · rename_i hwithin
    exact (Nat.min_eq_left (Nat.le_of_not_lt hwithin)).symm

/-- Settles O12: LOAD_BE is the shared stage with the samples of R87, which R88 gives in closed form. -/
theorem loadBeFollowsItsRule : Obligations.LoadBeFollowsItsRule := by
  intro s
  rw [exec_loadBe_eq]
  refine ⟨fun h => congrArg _ (load_illegal_geometry h), fun h hlen => congrArg _ (load_short_stream h hlen),
    fun h hlen => congrArg _ (load_long_stream h hlen), fun h hlen => ?_⟩
  obtain ⟨t, hrun, hsamples, hframe, hregs⟩ := load_result (opcode := 0x01) (sample := loadBeSample) h hlen
  refine ⟨t, congrArg _ hrun, fun i hi => ⟨?_, ?_⟩, hframe, hregs⟩
  · exact (hsamples i hi).trans (loadBeSample_closed _ _)
  · exact (hsamples i hi).trans_le (loadBeSample_le _ _)

/-- Settles O13: LOAD_NATIVE is the shared stage with the samples of R90, clamped as R91 says. -/
theorem loadNativeFollowsItsRule : Obligations.LoadNativeFollowsItsRule := by
  intro s
  rw [exec_loadNative_eq]
  refine ⟨fun h => congrArg _ (load_illegal_geometry h), fun h hlen => congrArg _ (load_short_stream h hlen),
    fun h hlen => congrArg _ (load_long_stream h hlen), fun h hlen => ?_⟩
  obtain ⟨t, hrun, hsamples, hframe, hregs⟩ :=
    load_result (opcode := 0x02) (sample := loadNativeSample Config.params) h hlen
  exact ⟨t, congrArg _ hrun, fun i hi => (hsamples i hi).trans (loadNativeSample_toNat _ _), hframe, hregs⟩

end Sys2Proof.Machine

/-! ## Settling O14 and O15: COMPRESS, and its binary64 path, which rises with the fraction that it scales -/

namespace Sys2Proof.Machine

/-! ### The samples of the frame, and their extremes -/

/-- F16[0 .. N-1] as natural numbers (R58). -/
theorem f16Samples_map_toNat (s : State) : s.f16Samples.map BitVec.toNat = (List.range s.pixels).map s.f16At := by
  refine List.ext_getElem? fun i => ?_
  rw [List.getElem?_map, List.getElem?_map]
  by_cases hi : i < s.pixels
  · rw [f16Samples_getElem s i hi, List.getElem?_range hi]
    rfl
  · simp [Nat.le_of_not_lt hi]

theorem f16At_le (s : State) (i : Nat) : s.f16At i ≤ 65535 := Nat.le_of_lt_succ (BitVec.isLt _)

theorem mem_map_f16At {s : State} {x : Nat} (h : ∃ i < s.pixels, s.f16At i = x) :
    x ∈ (List.range s.pixels).map s.f16At :=
  List.mem_map.mpr (h.imp fun _ ⟨hi, hx⟩ => ⟨List.mem_range.mpr hi, hx⟩)

/-- lo and hi are the least and the greatest sample of F16[0 .. N-1] (R95, R100). -/
def State.SampleExtremes (s : State) (lo hi : Nat) : Prop :=
  (∃ i < s.pixels, s.f16At i = lo) ∧ (∃ i < s.pixels, s.f16At i = hi) ∧
    ∀ i < s.pixels, lo ≤ s.f16At i ∧ s.f16At i ≤ hi

section
variable {s : State} {lo hi : Nat} (h : s.SampleExtremes lo hi)
include h

theorem State.SampleExtremes.ordered : lo ≤ hi ∧ hi ≤ 65535 := by
  obtain ⟨-, ⟨i, hi, rfl⟩, hbounds⟩ := h
  exact ⟨(hbounds i hi).1, f16At_le s i⟩

/-- The scan for the minimum starts at the greatest sample there can be, so that it ends at the least of the frame. -/
theorem State.SampleExtremes.minSample_eq : minSample s.f16Samples = lo := by
  obtain ⟨hlohi, hmax⟩ := h.ordered
  obtain ⟨hmem, -, hbounds⟩ := h
  have hmin : ((List.range s.pixels).map s.f16At).min? = some lo :=
    List.min?_eq_some_iff.mpr
      ⟨mem_map_f16At hmem, List.forall_mem_map.mpr fun i hi => (hbounds i (List.mem_range.mp hi)).1⟩
  calc minSample s.f16Samples = (s.f16Samples.map BitVec.toNat).foldl min 65535 := List.foldl_map.symm
    _ = min 65535 lo := by rw [f16Samples_map_toNat, List.foldl_min, hmin]; rfl
    _ = lo := Nat.min_eq_right (hlohi.trans hmax)

theorem State.SampleExtremes.maxSample_eq : maxSample s.f16Samples = hi := by
  obtain ⟨-, hmem, hbounds⟩ := h
  have hmax : ((List.range s.pixels).map s.f16At).max? = some hi :=
    List.max?_eq_some_iff.mpr
      ⟨mem_map_f16At hmem, List.forall_mem_map.mpr fun i hi => (hbounds i (List.mem_range.mp hi)).2⟩
  calc maxSample s.f16Samples = (s.f16Samples.map BitVec.toNat).foldl max 0 := List.foldl_map.symm
    _ = max 0 hi := by rw [f16Samples_map_toNat, List.foldl_max, hmax]; rfl
    _ = hi := Nat.zero_max hi

end

/-! ### Rounding is monotone -/

/-- A greater fraction has no smaller rounding: two roundings the other way round would share their midpoint as a tie,
and both be even, with an odd encoding between them that is nearer. -/
theorem IsRounding.le_of_le {r num den r' num' den' : Nat} (hden : 0 < den) (hden' : 0 < den')
    (h : IsRounding r num den) (h' : IsRounding r' num' den') (hle : num * den' ≤ num' * den) : r ≤ r' := by
  by_contra hlt
  obtain ⟨hmid, heven⟩ := h.1 r' (by omega)
  obtain ⟨hmid', heven'⟩ := h'.2 r (by omega)
  have htie : (magUnits r' + magUnits r) * den = 2 * num := by
    refine le_antisymm hmid (Nat.le_of_mul_le_mul_right ?_ hden')
    calc 2 * num * den' ≤ 2 * num' * den := by rw [Nat.mul_assoc, Nat.mul_assoc]; omega
      _ ≤ (magUnits r' + magUnits r) * den' * den := Nat.mul_le_mul_right den hmid'
      _ = (magUnits r' + magUnits r) * den * den' := Nat.mul_right_comm _ _ _
  have htie' : 2 * num' = (magUnits r' + magUnits r) * den' := by
    refine le_antisymm hmid' (Nat.le_of_mul_le_mul_right ?_ hden)
    calc (magUnits r' + magUnits r) * den' * den = 2 * num * den' := by rw [Nat.mul_right_comm, htie]
      _ ≤ 2 * num' * den := by rw [Nat.mul_assoc, Nat.mul_assoc]; omega
  have hbetween : r' + 1 < r := by have := heven htie; have := heven' htie'; omega
  have hnearer : (magUnits (r' + 1) + magUnits r) * den ≤ (magUnits r' + magUnits r) * den :=
    htie ▸ (h.1 (r' + 1) hbetween).1
  have := Nat.le_of_mul_le_mul_right hnearer hden
  have := magUnits_lt_succ r'
  omega

theorem roundMag_mono {num den num' den' : Nat} (hden : 0 < den) (hden' : 0 < den') (hle : num * den' ≤ num' * den) :
    roundMag num den ≤ roundMag num' den' :=
  min_le_min_right f64Inf
    ((roundFinite_isRounding num hden).le_of_le hden hden' (roundFinite_isRounding num' hden') hle)

/-- The rounding is a function of the fraction. -/
theorem roundMag_congr {num den num' den' : Nat} (hden : 0 < den) (hden' : 0 < den') (heq : num * den' = num' * den) :
    roundMag num den = roundMag num' den' :=
  le_antisymm (roundMag_mono hden hden' heq.le) (roundMag_mono hden' hden heq.ge)

/-- A value that has an encoding is rounded to it. -/
theorem roundMag_magUnits {m : Nat} (h : m ≤ f64Inf) : roundMag (magUnits m) 1 = m := by
  have hnearest := ((roundFinite_isRounding (magUnits m) one_pos).nearest one_pos m).1
  have hexact : magUnits (roundFinite (magUnits m) 1) = magUnits m := by omega
  rw [roundMag_eq_min, magUnits_strictMono.injective hexact, Nat.min_eq_left h]

/-- A fraction above the midpoint of two neighbours is not rounded to the lower one. -/
theorem lt_roundMag_of_midpoint_lt {m num den : Nat} (hden : 0 < den) (hfin : m < f64Inf)
    (h : (magUnits m + magUnits (m + 1)) * den < 2 * num) : m < roundMag num den := by
  rw [roundMag_eq_min]
  refine lt_min ?_ hfin
  by_contra hle
  have habove := ((roundFinite_isRounding num hden).2 (m + 1) (by omega)).1
  have hmono : magUnits (roundFinite num den) ≤ magUnits m := magUnits_strictMono.monotone (by omega)
  have := Nat.mul_le_mul_right den (Nat.add_le_add_right hmono (magUnits (m + 1)))
  omega

/-! ### Integers and dyadic fractions are exact -/

/-- A multiple n·2^t of a power of two with n below 2^53 has an encoding: its significand is shifted up to 53 bits. -/
theorem exists_magUnits_eq_mul_two_pow {n t : Nat} (hn : n < 2 ^ 53) (hlow : 52 ≤ t) (hhigh : t ≤ 1100) :
    ∃ m < f64Inf, magUnits m = n * 2 ^ t := by
  obtain rfl | hpos := Nat.eq_zero_or_pos n
  · exact ⟨0, by decide, (Nat.zero_mul _).symm⟩
  have hge : 2 ^ Nat.log2 n ≤ n := Nat.log2_self_le hpos.ne'
  have hlt : n < 2 ^ (Nat.log2 n + 1) := Nat.lt_log2_self
  have hlog : Nat.log2 n < 53 := (Nat.log2_lt hpos.ne').mpr hn
  obtain ⟨c, hc⟩ : ∃ c, Nat.log2 n + c = 52 := ⟨52 - Nat.log2 n, by omega⟩
  have hk : 0x10000000000000 ≤ n * 2 ^ c ∧ n * 2 ^ c < 0x20000000000000 := by
    constructor
    · calc 0x10000000000000 = 2 ^ Nat.log2 n * 2 ^ c := by rw [← Nat.pow_add, hc]
        _ ≤ n * 2 ^ c := Nat.mul_le_mul_right _ hge
    · calc n * 2 ^ c < 2 ^ (Nat.log2 n + 1) * 2 ^ c := Nat.mul_lt_mul_of_pos_right hlt (Nat.two_pow_pos c)
        _ = 0x20000000000000 := by rw [← Nat.pow_add, show Nat.log2 n + 1 + c = 53 by omega]
  refine ⟨(t - c) * 0x10000000000000 + n * 2 ^ c, by unfold f64Inf; omega, ?_⟩
  rw [magUnits_encode _ _ (.inr hk.1) hk.2.le, Nat.mul_assoc, ← pow_add, show c + (t - c) = t by omega]

/-- 1 in least subnormals, split as the exponents of a proof need it. -/
theorem f64One_eq_mul {a b : Nat} (h : a + b = 1074) : f64One = 2 ^ a * 2 ^ b := by
  rw [← pow_add, h]
  exact one_shiftLeft_eq_two_pow 1074

theorem exists_magUnits_eq_mul_f64One {n : Nat} (hn : n < 2 ^ 53) : ∃ m < f64Inf, magUnits m = n * f64One := by
  rw [f64One_eq_mul (Nat.zero_add 1074), pow_zero, Nat.one_mul]
  exact exists_magUnits_eq_mul_two_pow hn (by decide) (by decide)

theorem f64OfNat_eq_round (n : Nat) : f64OfNat n = f64Round false (n * f64One) 1 :=
  congrArg (f64Round false · 1) (shiftLeft_1074 n)

@[simp] theorem f64Sign_ofNat (n : Nat) : f64Sign (f64OfNat n) = false := (f64Round_spec _ _ _).2

/-- The conversion of an integer below 2^53 is exact and finite (R10). -/
theorem f64OfNat_exact {n : Nat} (hn : n < 2 ^ 53) :
    isfinite (f64OfNat n) = true ∧ f64Units (f64OfNat n) = n * f64One := by
  obtain ⟨m, hfin, hm⟩ := exists_magUnits_eq_mul_f64One hn
  have hmag : f64Mag (f64OfNat n) = m := by
    rw [f64OfNat_eq_round, (f64Round_spec _ _ _).1, ← hm, roundMag_magUnits hfin.le]
  rw [isfinite_iff, f64Units_eq_magUnits, hmag]
  exact ⟨hfin, hm⟩

theorem f64Units_255 : f64Units f64_255 = 255 * f64One := by
  have hmag : f64Mag f64_255 = 1029 * 0x10000000000000 + 255 * 2 ^ 45 := by decide
  rw [f64Units_eq_magUnits, hmag, magUnits_encode _ _ (.inr (by decide)) (by decide),
    f64One_eq_mul (a := 45) (b := 1029) rfl, ← Nat.mul_assoc]

/-! ### The path of a pixel: the quotient, the product by 255 and the floor -/

/-- The binary64 value nearest to the fraction num/den. -/
def f64Ratio (num den : Nat) : F64 := f64Round false (num * f64One) den

/-- That value in least subnormals. -/
def ratioUnits (num den : Nat) : Nat := magUnits (roundMag (num * f64One) den)

/-- The rounded product by 255 of a value in least subnormals. -/
def productUnits (units : Nat) : Nat := magUnits (roundMag (units * 255) 1)

theorem productUnits_eq (units : Nat) : productUnits units = magUnits (roundMag (units * 255) 1) := rfl

/-- The quotient of two exact integers is the rounding of their fraction (R97). -/
theorem fdiv_ofNat {x d : Nat} (hx : x < 2 ^ 53) (hpos : 0 < d) (hd : d < 2 ^ 53) :
    fdiv (f64OfNat x) (f64OfNat d) = f64Ratio x d := by
  obtain ⟨hxfin, hxunits⟩ := f64OfNat_exact hx
  obtain ⟨hdfin, hdunits⟩ := f64OfNat_exact hd
  have hunits : 0 < d * f64One := Nat.mul_pos hpos f64One_pos
  have hmag : f64Mag (f64OfNat d) ≠ 0 := by
    intro hzero
    rw [f64Units_eq_magUnits, hzero] at hdunits
    exact hunits.ne hdunits
  have hround : roundMag (x * f64One * f64One) (d * f64One) = roundMag (x * f64One) d :=
    roundMag_congr hunits hpos (by ring)
  rw [fdiv_of_finite hxfin hdfin hmag, hxunits, hdunits, f64Sign_ofNat, f64Sign_ofNat, bne_self_eq_false]
  exact congrArg (f64Make false) hround

theorem ffloor_round_false (num den : Nat) :
    ffloor (f64Round false num den) = ((magUnits (roundMag num den) / f64One : Nat) : Int) := by
  have hint : f64Int (f64Round false num den) = (f64Units (f64Round false num den) : Int) :=
    if_neg (Bool.eq_false_iff.mp (f64Round_spec _ _ _).2)
  show f64Int (f64Round false num den) / (f64One : Int) = _
  rw [hint, f64Units_eq_magUnits, (f64Round_spec _ _ _).1]
  rfl

theorem ratioUnits_mono {num den num' den' : Nat} (hden : 0 < den) (hden' : 0 < den') (h : num * den' ≤ num' * den) :
    ratioUnits num den ≤ ratioUnits num' den' := by
  refine magUnits_strictMono.monotone (roundMag_mono hden hden' ?_)
  rw [Nat.mul_right_comm, Nat.mul_right_comm num']
  exact Nat.mul_le_mul_right _ h

theorem productUnits_mono {u u' : Nat} (h : u ≤ u') : productUnits u ≤ productUnits u' :=
  magUnits_strictMono.monotone (roundMag_mono one_pos one_pos (Nat.mul_le_mul_right 1 (Nat.mul_le_mul_right 255 h)))

/-- The quotient of a fraction up to 1 is finite. -/
theorem f64Ratio_finite {num den : Nat} (hden : 0 < den) (hle : num ≤ den) : isfinite (f64Ratio num den) = true := by
  obtain ⟨m, hfin, hm⟩ := exists_magUnits_eq_mul_f64One (n := 1) (by decide)
  refine (isfinite_iff _).mpr ?_
  calc f64Mag (f64Ratio num den) = roundMag (num * f64One) den := (f64Round_spec _ _ _).1
    _ ≤ roundMag (1 * f64One) 1 :=
        roundMag_mono hden one_pos (by rw [Nat.mul_one, Nat.one_mul, Nat.mul_comm]; exact Nat.mul_le_mul_left _ hle)
    _ = m := by rw [← hm, roundMag_magUnits hfin.le]
    _ < f64Inf := hfin

/-- The path of COMPRESS from the rounded fraction on, in least subnormals. -/
theorem ffloor_fmul_f64Ratio {num den : Nat} (hden : 0 < den) (hle : num ≤ den) :
    ffloor (fmul (f64Ratio num den) f64_255) = ((productUnits (ratioUnits num den) / f64One : Nat) : Int) := by
  have hround : roundMag (ratioUnits num den * (255 * f64One)) f64One = roundMag (ratioUnits num den * 255) 1 :=
    roundMag_congr f64One_pos one_pos (by ring)
  have hsign : f64Sign (f64Ratio num den) = false := (f64Round_spec _ _ _).2
  have hunits : f64Units (f64Ratio num den) = ratioUnits num den := congrArg magUnits (f64Round_spec _ _ _).1
  rw [fmul_of_finite (f64Ratio_finite hden hle) (by decide), hsign, hunits, f64Units_255]
  refine (ffloor_round_false _ _).trans ?_
  rw [hround, productUnits_eq]

/-! ### The floor is not above the integer quotient -/

/-- The path is exact on a fraction j/2^40. -/
theorem productUnits_dyadic {j : Nat} (hj : j ≤ 2 ^ 40) :
    productUnits (ratioUnits j (2 ^ 40)) = 255 * j * 2 ^ 1034 := by
  obtain ⟨m, hfin, hm⟩ := exists_magUnits_eq_mul_two_pow (n := j) (t := 1034) (by omega) (by decide) (by decide)
  obtain ⟨m', hfin', hm'⟩ :=
    exists_magUnits_eq_mul_two_pow (n := 255 * j) (t := 1034) (by omega) (by decide) (by decide)
  have hone : f64One = 2 ^ 40 * 2 ^ 1034 := f64One_eq_mul rfl
  generalize 2 ^ 1034 = p at *
  have hround : roundMag (j * f64One) (2 ^ 40) = roundMag (magUnits m) 1 :=
    roundMag_congr (by decide) one_pos (by rw [hm, hone]; ring)
  have hratio : ratioUnits j (2 ^ 40) = magUnits m := congrArg magUnits (hround.trans (roundMag_magUnits hfin.le))
  rw [productUnits_eq, hratio, hm, show j * p * 255 = 255 * j * p by ring, ← hm',
    roundMag_magUnits hfin'.le]

/-- A fraction is less than 2^-40 below the next multiple j/2^40. -/
theorem exists_dyadic_above {x d : Nat} (hle : x ≤ d) (hpos : 0 < d) :
    ∃ j ≤ 2 ^ 40, x * 2 ^ 40 ≤ j * d ∧ j * d < x * 2 ^ 40 + d := by
  have hdiv : (x * 2 ^ 40 + (d - 1)) / d * d + (x * 2 ^ 40 + (d - 1)) % d = x * 2 ^ 40 + (d - 1) := Nat.div_add_mod' _ _
  have hmod : (x * 2 ^ 40 + (d - 1)) % d < d := Nat.mod_lt _ hpos
  refine ⟨(x * 2 ^ 40 + (d - 1)) / d, Nat.lt_succ_iff.mp ((Nat.div_lt_iff_lt_mul hpos).mpr ?_), by omega, by omega⟩
  omega

/-- The next multiple j/2^40 is still below (n + 1)/255, from which x/d is at least 1/(255·d) away. -/
theorem productUnits_div_le {x d n : Nat} (hle : x ≤ d) (hpos : 0 < d) (hd : d ≤ 65535) (hn : 255 * x < (n + 1) * d) :
    productUnits (ratioUnits x d) / f64One ≤ n := by
  obtain ⟨j, hj, hup, hclose⟩ := exists_dyadic_above hle hpos
  have hbelow : 255 * j < (n + 1) * 2 ^ 40 := by
    refine Nat.lt_of_mul_lt_mul_right (a := d) ?_
    rw [Nat.mul_assoc, Nat.mul_right_comm]
    omega
  have hpath : productUnits (ratioUnits x d) ≤ 255 * j * 2 ^ 1034 :=
    productUnits_dyadic hj ▸ productUnits_mono (ratioUnits_mono hpos (by decide) hup)
  refine Nat.lt_succ_iff.mp ((Nat.div_lt_iff_lt_mul f64One_pos).mpr (hpath.trans_lt ?_))
  rw [f64One_eq_mul (a := 40) (b := 1034) rfl, ← Nat.mul_assoc]
  exact Nat.mul_lt_mul_of_pos_right hbelow (pow_pos two_pos 1034)

/-! ### The floor is not below the integer quotient -/

/-- A fraction above the midpoint (k + 1/2)·2^e, with a 53-bit k, is rounded to (k + 1)·2^e or above. -/
theorem le_magUnits_roundMag {e k num den : Nat} (hden : 0 < den) (he : e ≤ 1100) (hlow : 0x10000000000000 ≤ k)
    (hhigh : k < 0x20000000000000) (h : (2 * k + 1) * 2 ^ e * den < 2 * num) :
    (k + 1) * 2 ^ e ≤ magUnits (roundMag num den) := by
  have hk : magUnits (e * 0x10000000000000 + k) = k * 2 ^ e := magUnits_encode e k (.inr hlow) (by omega)
  have hk1 : magUnits (e * 0x10000000000000 + k + 1) = (k + 1) * 2 ^ e := by
    rw [Nat.add_assoc, magUnits_encode e (k + 1) (.inr (by omega)) (by omega)]
  rw [← hk1]
  refine magUnits_strictMono.monotone (Nat.succ_le_of_lt (lt_roundMag_of_midpoint_lt hden (by unfold f64Inf; omega) ?_))
  rwa [hk, hk1, ← Nat.add_mul, show k + (k + 1) = 2 * k + 1 by omega]

/-- A positive n up to 255 is shifted to lie above 128 and up to 256: 45 bits further and it has 53 bits or is 2^53. -/
theorem exists_shift {n : Nat} (hpos : 0 < n) (hn : n ≤ 255) : ∃ s ≤ 8, 128 < n * 2 ^ s ∧ n * 2 ^ s ≤ 256 := by
  have hge : 2 ^ Nat.log2 (2 * n - 1) ≤ 2 * n - 1 := Nat.log2_self_le (by omega)
  have hlt : 2 * n - 1 < 2 ^ (Nat.log2 (2 * n - 1) + 1) := Nat.lt_log2_self
  have hlog : Nat.log2 (2 * n - 1) < 9 := (Nat.log2_lt (by omega)).mpr (by omega)
  generalize Nat.log2 (2 * n - 1) = l at *
  have hsplit : 2 ^ l * 2 ^ (8 - l) = 256 := by rw [← Nat.pow_add, Nat.add_sub_of_le (Nat.lt_succ_iff.mp hlog)]
  have hlow : 2 ^ l * 2 ^ (8 - l) < 2 * n * 2 ^ (8 - l) := Nat.mul_lt_mul_of_pos_right (by omega) (Nat.two_pow_pos _)
  have hhigh : n * 2 ^ (8 - l) ≤ 2 ^ l * 2 ^ (8 - l) := Nat.mul_le_mul_right _ (by rw [Nat.pow_succ] at hlt; omega)
  rw [hsplit, Nat.mul_assoc] at hlow
  exact ⟨8 - l, Nat.sub_le _ _, by omega, hsplit ▸ hhigh⟩

/-- The quotient n/255 is rounded to k·2^(1021-s) or above, where 255·k is short of n·2^s·2^53 by at most 127, which is
less than half the step of 53 bits below n. For n·2^s = 256, a power of two, the quotient's steps are twice as wide, and
⌊2^60/255⌋ = 4521260802379792 of them are short by no more than 32. -/
theorem le_ratioUnits {n s : Nat} (hs : s ≤ 8) (hlow : 128 < n * 2 ^ s) (hhigh : n * 2 ^ s ≤ 256) :
    ∃ k, n * 2 ^ s * 2 ^ 53 ≤ 255 * k + 127 ∧ k * 2 ^ (1021 - s) ≤ ratioUnits n 255 := by
  have hnum : n * f64One = n * 2 ^ s * 2 ^ 53 * 2 ^ (1021 - s) := by
    rw [f64One_eq_mul (a := s + 53) (b := 1021 - s) (by omega), pow_add]
    ring
  have hpos : 0 < 2 ^ (1021 - s) := Nat.two_pow_pos _
  have hexp : 2 ^ (1022 - s) = 2 * 2 ^ (1021 - s) := by rw [← pow_succ', show 1021 - s + 1 = 1022 - s by omega]
  have hratio : ratioUnits n 255 = magUnits (roundMag (n * 2 ^ s * 2 ^ 53 * 2 ^ (1021 - s)) 255) :=
    congrArg (fun units => magUnits (roundMag units 255)) hnum
  rw [hratio]
  obtain hpower | hless : n * 2 ^ s = 256 ∨ n * 2 ^ s ≤ 255 := by omega
  · have h : 4521260802379792 * 2 ^ (1022 - s) ≤ magUnits (roundMag (n * 2 ^ s * 2 ^ 53 * 2 ^ (1021 - s)) 255) := by
      refine le_magUnits_roundMag (by decide) (by omega) (by decide) (by decide) ?_
      rw [hpower, hexp]
      omega
    exact ⟨2 * 4521260802379792, by omega, by rwa [hexp, ← Nat.mul_assoc, Nat.mul_comm _ 2] at h⟩
  · generalize n * 2 ^ s = shifted at *
    obtain ⟨k, hk⟩ : ∃ k, k + 1 = (shifted * 2 ^ 53 + 127) / 255 := ⟨(shifted * 2 ^ 53 + 127) / 255 - 1, by omega⟩
    refine ⟨k + 1, by omega, le_magUnits_roundMag (by decide) (by omega) (by omega) (by omega) ?_⟩
    rw [Nat.mul_right_comm, ← Nat.mul_assoc 2]
    exact Nat.mul_lt_mul_of_pos_right (by omega) hpos

/-- At n/255, where the exact product is the integer n, the rounded product is not below it. -/
theorem le_productUnits {n : Nat} (hn : n ≤ 255) : n * f64One ≤ productUnits (ratioUnits n 255) := by
  obtain rfl | hpos := Nat.eq_zero_or_pos n
  · rw [Nat.zero_mul]
    exact Nat.zero_le _
  obtain ⟨s, hs, hlow, hhigh⟩ := exists_shift hpos hn
  obtain ⟨k, hk, hratio⟩ := le_ratioUnits hs hlow hhigh
  have hexp : 2 ^ (1029 - s) = 2 ^ 8 * 2 ^ (1021 - s) := by rw [← pow_add, show 8 + (1021 - s) = 1029 - s by omega]
  have hunits : n * f64One = n * 2 ^ s * 2 ^ 45 * 2 ^ (1029 - s) := by
    rw [f64One_eq_mul (a := s + 45) (b := 1029 - s) (by omega), pow_add]
    ring
  have hpos : 0 < 2 ^ (1021 - s) := Nat.two_pow_pos _
  have h := le_magUnits_roundMag (e := 1029 - s) (k := n * 2 ^ s * 2 ^ 45 - 1) (num := ratioUnits n 255 * 255)
    (den := 1) one_pos (by omega) (by omega) (by omega) ?_
  · rwa [Nat.sub_add_cancel (by omega), ← hunits] at h
  · rw [hexp]
    calc (2 * (n * 2 ^ s * 2 ^ 45 - 1) + 1) * (2 ^ 8 * 2 ^ (1021 - s)) * 1
        = (2 * (n * 2 ^ s * 2 ^ 45 - 1) + 1) * 2 ^ 8 * 2 ^ (1021 - s) := by ring
      _ < 2 * (k * 255) * 2 ^ (1021 - s) := Nat.mul_lt_mul_of_pos_right (by omega) hpos
      _ = 2 * (k * 2 ^ (1021 - s) * 255) := by ring
      _ ≤ 2 * (ratioUnits n 255 * 255) := Nat.mul_le_mul_left 2 (Nat.mul_le_mul_right 255 hratio)

/-- Settles O14: both roundings rise with the fraction, so that x/d is compared with a dyadic fraction above it, on
which both are exact, and with n/255 below it, n the integer quotient, on which the product reaches n. -/
theorem compressedPixelIsTheIntegerQuotient : Obligations.CompressedPixelIsTheIntegerQuotient := by
  intro x d hle hpos hd
  have hlow : 255 * x / d * d ≤ x * 255 := by rw [Nat.mul_comm x]; exact Nat.div_mul_le_self _ _
  have hn : 255 * x / d ≤ 255 := Nat.div_le_of_le_mul (by omega)
  rw [fdiv_ofNat (by omega) hpos (by omega)]
  refine (ffloor_fmul_f64Ratio hpos hle).trans (congrArg Nat.cast ?_)
  refine le_antisymm (productUnits_div_le hle hpos hd (Nat.lt_mul_of_div_lt (Nat.lt_succ_self _) hpos)) ?_
  refine (Nat.le_div_iff_mul_le f64One_pos).mpr ((le_productUnits hn).trans ?_)
  exact productUnits_mono (ratioUnits_mono (by decide) hpos hlow)

/-! ### A commit of COMPRESS -/

/-- The pixel of a sample between the extremes is the integer quotient, which a byte holds (R97). -/
theorem toNat_compressPixel {lo hi x : Nat} (hlo : lo ≤ x) (hhi : x ≤ hi) (hne : lo ≠ hi) (hle : hi ≤ 65535) :
    (compressPixel lo hi x).toNat = 255 * (x - lo) / (hi - lo) := by
  have hquotient := compressedPixelIsTheIntegerQuotient (x - lo) (hi - lo) (by omega) (by omega) (by omega)
  have hbyte : 255 * (x - lo) / (hi - lo) ≤ 255 := Nat.div_le_of_le_mul (by omega)
  have hpixel : compressPixel lo hi x = BitVec.ofInt 8 (255 * (x - lo) / (hi - lo) : Nat) :=
    congrArg (BitVec.ofInt 8) hquotient
  rw [hpixel, BitVec.ofInt_natCast, BitVec.toNat_ofNat, Nat.mod_eq_of_lt (by omega)]

section
variable {px : List Byte} {lo hi : Nat} {flat : Bool} {s : State}

theorem f8inAt_commitCompress {i : Nat} {b : Byte} (h : px[i]? = some b) :
    (commitCompress px lo hi flat s).f8inAt i = b.toNat :=
  congrArg BitVec.toNat (byteAt_write_option s.mem s.epoch 0x03000000 i px b h)

theorem byteAt_commitCompress_outside {a : Nat} (h : a < 0x03000000 ∨ 0x03000000 + px.length ≤ a) :
    (commitCompress px lo hi flat s).byteAt a = s.byteAt a :=
  byteAt_write_outside s.mem s.epoch 0x03000000 a px h

end

/-! ### The outcomes of COMPRESS -/

theorem exec_compress_error {s : State} {code : ErrCode} (h : stageCompress Config.params s = .error ⟨code, 0x03, 0⟩) :
    exec .compress s = .next (s.failed code.number.toNat 3) :=
  (exec_eq_runCommand .compress s).trans (congrArg _ ((runCommand_cons_error h).trans (raise_eq_failed s code 0x03)))

/-- A COMPRESS that commits the pixels `pixel` of the samples: beside F8IN[0 .. N-1] it writes MINV, MAXV, FLAT_USED,
V_F8IN and STATUS (R95, R96). -/
theorem exec_compress_commit {s : State} {pixel : Half → Byte} {lo hi : Nat} {flat : Bool}
    (h : stageCompress Config.params s = .ok (commitCompress (s.f16Samples.map pixel) lo hi flat s)) :
    ∃ t, exec .compress s = .next t ∧
      (∀ i < s.pixels, t.f8inAt i = (pixel (s.halfAt (0x02000000 + 2 * i))).toNat) ∧
      (∀ a, a < 0x03000000 ∨ 0x03000000 + s.pixels ≤ a → t.byteAt a = s.byteAt a) ∧
      t = { s with mem := t.mem, minv := BitVec.ofNat 32 lo, maxv := BitVec.ofNat 32 hi,
                   fallback := fallbackCompress s.fallback flat, valid := s.valid ||| 0x00000002,
                   status := completedStatus s.status } := by
  refine ⟨(commitCompress (s.f16Samples.map pixel) lo hi flat s).complete,
    (exec_eq_runCommand .compress s).trans (congrArg _ (runCommand_single_ok h)), fun i hlt => ?_, fun a ha => ?_, rfl⟩
  · show (commitCompress (s.f16Samples.map pixel) lo hi flat s).f8inAt i = _
    refine f8inAt_commitCompress ?_
    rw [List.getElem?_map, f16Samples_getElem s i hlt]
    rfl
  · show (commitCompress (s.f16Samples.map pixel) lo hi flat s).byteAt a = _
    exact byteAt_commitCompress_outside (by rwa [List.length_map, f16Samples_length])

section
variable {s : State} {lo hi : Nat} (hlegal : s.GeometryLegal) (hvalid : s.vF16 = true) (h : s.SampleExtremes lo hi)
include hlegal hvalid h

/-- A frame that is flat (R96). -/
theorem stageCompress_flat (hflat : lo = hi) :
    stageCompress Config.params s =
      if s.flatZero then .ok (commitCompress (s.f16Samples.map fun _ => 0) lo hi true s)
      else .error ⟨.degenerateFrame, 0x03, 0⟩ := by
  rw [stageCompress_eq, if_pos ((dimsOk_iff s).mpr hlegal), if_pos hvalid, h.minSample_eq, h.maxSample_eq,
    if_pos hflat.symm]

/-- A frame that is not flat (R95). -/
theorem stageCompress_linear (hrange : lo ≠ hi) :
    stageCompress Config.params s =
      .ok (commitCompress (s.f16Samples.map fun x => compressPixel lo hi x.toNat) lo hi false s) := by
  rw [stageCompress_eq, if_pos ((dimsOk_iff s).mpr hlegal), if_pos hvalid, h.minSample_eq, h.maxSample_eq,
    if_neg hrange.symm]

end

/-- Settles O15: the checks, then the scan for the extremes, which decides between the flat frame and the linear map; a
pixel of the map is O14's integer quotient. -/
theorem compressFollowsItsRule : Obligations.CompressFollowsItsRule := by
  refine fun s => ⟨fun hillegal => ?_, fun hlegal hinvalid => ?_, fun lo hi hlegal hvalid hlo hhi hbounds => ?_⟩
  · refine exec_compress_error (code := .invalidDimensions) ?_
    rw [stageCompress_eq, if_neg (mt (dimsOk_iff s).mp hillegal)]
  · refine exec_compress_error (code := .sequence) ?_
    rw [stageCompress_eq, if_pos ((dimsOk_iff s).mpr hlegal), hinvalid]
    rfl
  have hextremes : s.SampleExtremes lo hi := ⟨hlo, hhi, hbounds⟩
  refine ⟨fun hflat hpolicy => ?_, fun hflat hpolicy => ?_, fun hrange => ?_⟩
  · refine exec_compress_error (code := .degenerateFrame) ?_
    rw [stageCompress_flat hlegal hvalid hextremes hflat, hpolicy]
    rfl
  · refine exec_compress_commit (pixel := fun _ => 0) (flat := true) ?_
    rw [stageCompress_flat hlegal hvalid hextremes hflat, if_pos hpolicy]
  · obtain ⟨t, hexec, hpixels, hframe, hregs⟩ :=
      exec_compress_commit (stageCompress_linear hlegal hvalid hextremes hrange)
    refine ⟨t, hexec, fun i hi => (hpixels i hi).trans ?_, hframe, hregs⟩
    rw [← f16At_eq]
    exact toNat_compressPixel (hbounds i hi).1 (hbounds i hi).2 hrange hextremes.ordered.2

end Sys2Proof.Machine

/-! ## Settling O16 and O17: HIST, its statistics as sums over the frame, and when they are 0 -/

namespace Sys2Proof.Machine

/-! ### The back-differences of the frame, in row-major order -/

/-- The back-difference of the pixel at index i of the frame (R103, R104). -/
def State.pixelDiff (s : State) (i : Nat) : Nat := s.backDiffAt (i / s.frameW) (i % s.frameW)

/-- In terms of the index alone: the pixel two columns to the left of index i, from column 2 on, has index i - 2. -/
theorem State.pixelDiff_eq (s : State) (i : Nat) :
    s.pixelDiff i = if i % s.frameW < 2 then s.f8inAt i else ((s.f8inAt i : Int) - s.f8inAt (i - 2)).natAbs := by
  have hindex : i / s.width.toNat * s.width.toNat + i % s.width.toNat = i := Nat.div_add_mod' _ _
  show s.backDiffAt (i / s.width.toNat) (i % s.width.toNat) = _
  rw [State.backDiffAt, State.frameW, hindex]

theorem absDiff_eq_natAbs (a b : Byte) : absDiff a b = ((a.toNat : Int) - b.toNat).natAbs := by
  rw [absDiff]
  omega

/-- Each pixel of the frame beside its back-difference. -/
def State.frameDiffs (s : State) : List (Byte × Nat) :=
  (List.range s.pixels).map fun i => (s.byteAt (0x03000000 + i), s.pixelDiff i)

theorem State.map_frameDiffs {α : Type} (f : Byte × Nat → α) (s : State) :
    s.frameDiffs.map f = (List.range s.pixels).map fun i => f (s.byteAt (0x03000000 + i), s.pixelDiff i) :=
  List.map_map

@[simp] theorem State.frameDiffs_length (s : State) : s.frameDiffs.length = s.pixels :=
  (List.length_map _).trans List.length_range

@[simp] theorem State.frameDiffs_getElem (s : State) (i : Nat) (h : i < s.frameDiffs.length) :
    s.frameDiffs[i] = (s.byteAt (0x03000000 + i), s.pixelDiff i) :=
  (List.getElem_map _).trans (by rw [List.getElem_range])

/-- The model's scan of F8IN gives each pixel of the frame beside its back-difference: a column from 2 on has an index
from 2 on, where the scan's second pixel is that of two indices before. -/
theorem backDiffs_f8inPixels (s : State) : backDiffs s.frameW s.f8inPixels = s.frameDiffs := by
  refine List.ext_getElem (by simp) fun i hi _ => ?_
  have hpixels : i < s.pixels := by simpa using hi
  have hpixel (j : Nat) (hj : j < s.f8inPixels.length) : s.f8inPixels[j] = s.byteAt (0x03000000 + j) :=
    read_getElem s.mem s.epoch 0x03000000 s.pixels j hj
  simp only [backDiffs, withLeft2, List.getElem_map, List.getElem_zipIdx, List.getElem_zip, hpixel,
    State.frameDiffs_getElem, Nat.zero_add, State.pixelDiff_eq]
  refine congrArg _ ?_
  split
  · rfl
  · rename_i hcolumn
    have hindex : i % s.frameW ≤ i := Nat.mod_le _ _
    obtain ⟨j, rfl⟩ : ∃ j, i = j + 2 := ⟨i - 2, by omega⟩
    simp only [List.getElem_cons_succ, hpixel]
    exact absDiff_eq_natAbs _ _

/-! ### Sums over the frame -/

/-- A sum over H rows of W columns is one sum in row-major order. -/
theorem sum_range_mul (f : Nat → Nat → Nat) (w h : Nat) :
    ((List.range (w * h)).map fun i => f (i / w) (i % w)).sum =
      ((List.range h).map fun r => ((List.range w).map fun c => f r c).sum).sum := by
  induction h with
  | zero => rfl
  | succ h ih =>
    have hrow : ((List.range w).map fun c => f ((w * h + c) / w) ((w * h + c) % w)) = (List.range w).map (f h) := by
      refine List.map_congr_left fun c hc => ?_
      have hlt : c < w := List.mem_range.mp hc
      rw [Nat.mul_add_div (by omega), Nat.div_eq_of_lt hlt, Nat.mul_add_mod, Nat.mod_eq_of_lt hlt, Nat.add_zero]
    rw [Nat.mul_succ, List.range_add, List.map_append, List.sum_append, ih, List.map_map, List.range_succ,
      List.map_append, List.sum_append]
    exact congrArg₂ _ rfl ((congrArg List.sum hrow).trans (Nat.add_zero _).symm)

theorem State.overFrame_eq_sum (s : State) (f : Nat → Nat → Nat) :
    s.overFrame f = ((List.range s.pixels).map fun i => f (i / s.frameW) (i % s.frameW)).sum :=
  (sum_range_mul f s.frameW s.frameH).symm

/-- Counting is summing 1 for each element that is counted. -/
theorem countP_eq_sum {α : Type} (p : α → Bool) (xs : List α) :
    xs.countP p = (xs.map fun x => if p x then 1 else 0).sum := by
  induction xs with
  | nil => rfl
  | cons x xs ih => rw [List.countP_cons, ih, List.map_cons, List.sum_cons, Nat.add_comm]

/-! ### The statistics of the frame -/

theorem histK_frameDiffs (s : State) : histK s.frameDiffs = s.frameK := by
  rw [State.frameK, State.overFrame_eq_sum, histK, State.map_frameDiffs]
  rfl

theorem length_histCounted_frameDiffs (s : State) :
    (histCounted s.thresholdValue s.frameDiffs).length = s.frameCount := by
  rw [State.frameCount, State.overFrame_eq_sum, histCounted, List.length_map, ← List.countP_eq_length_filter,
    countP_eq_sum, State.map_frameDiffs]
  simp only [decide_eq_true_eq]
  rfl

theorem countP_histCounted_frameDiffs (s : State) (v : Nat) :
    (histCounted s.thresholdValue s.frameDiffs).countP (fun b => b.toNat == v) = s.frameHist v := by
  have hindex (i : Nat) : i / s.frameW * s.width.toNat + i % s.frameW = i := Nat.div_add_mod' _ _
  rw [State.frameHist, State.overFrame_eq_sum, histCounted, List.countP_map, List.countP_filter, countP_eq_sum,
    State.map_frameDiffs]
  simp only [Function.comp_def, Bool.and_eq_true, beq_iff_eq, decide_eq_true_eq, hindex, and_comm]
  rfl

theorem State.frameK_le (s : State) : s.frameK ≤ 255 * s.pixels := by
  rw [← histK_frameDiffs, ← backDiffs_f8inPixels]
  simpa using histK_le _ (backDiffs_le s.frameW s.f8inPixels)

theorem State.frameCount_le (s : State) : s.frameCount ≤ s.pixels := by
  rw [← length_histCounted_frameDiffs]
  simpa using histCounted_length_le s.thresholdValue s.frameDiffs

/-- COUNT is the sum of the bins (R107). -/
theorem State.sum_frameHist (s : State) : ((List.range 256).map s.frameHist).sum = s.frameCount := by
  rw [← length_histCounted_frameDiffs, ← histBinsOf_sum, histBinsOf]
  simp only [countP_histCounted_frameDiffs]

theorem State.frameHist_le (s : State) (v : Nat) : s.frameHist v ≤ s.frameCount := by
  rw [← countP_histCounted_frameDiffs, ← length_histCounted_frameDiffs]
  exact List.countP_le_length

/-! ### Statistics that are 0 -/

theorem State.frameK_eq_zero_iff_pixelDiff (s : State) : s.frameK = 0 ↔ ∀ i < s.pixels, s.pixelDiff i = 0 := by
  rw [State.frameK, State.overFrame_eq_sum, List.sum_eq_zero_iff_forall_eq_nat, List.forall_mem_map]
  simp only [List.mem_range]
  rfl

/-- Where no back-difference is above 0, the columns 0 and 1 are 0, and every other pixel is as the one two columns to its
left, so that the frame is 0 from the left on (R107). -/
theorem State.f8inAt_eq_zero_of_pixelDiff {s : State} (h : ∀ i < s.pixels, s.pixelDiff i = 0) (i : Nat)
    (hi : i < s.pixels) : s.f8inAt i = 0 := by
  induction i using Nat.strong_induction_on with
  | _ i ih =>
    have hdiff := h i hi
    rw [State.pixelDiff_eq] at hdiff
    split at hdiff
    · exact hdiff
    · have hcolumn : i % s.frameW ≤ i := Nat.mod_le _ _
      have hleft : s.f8inAt (i - 2) = 0 := ih (i - 2) (by omega) (by omega)
      omega

theorem State.pixelDiff_eq_zero {s : State} (h : ∀ i < s.pixels, s.f8inAt i = 0) (i : Nat) (hi : i < s.pixels) :
    s.pixelDiff i = 0 := by
  rw [State.pixelDiff_eq, h i hi, h (i - 2) (by omega)]
  exact ite_self _

theorem State.frameK_eq_zero_iff (s : State) : s.frameK = 0 ↔ ∀ i < s.pixels, s.f8inAt i = 0 :=
  s.frameK_eq_zero_iff_pixelDiff.trans ⟨State.f8inAt_eq_zero_of_pixelDiff, State.pixelDiff_eq_zero⟩

/-- No back-difference of 0 exceeds THRESHOLD (R106, R107). -/
theorem State.frameCount_eq_zero {s : State} (h : s.frameK = 0) : s.frameCount = 0 := by
  rw [State.frameCount, State.overFrame_eq_sum, List.sum_eq_zero_iff_forall_eq_nat, List.forall_mem_map]
  intro i hi
  have hdiff : s.backDiffAt (i / s.frameW) (i % s.frameW) = 0 :=
    s.frameK_eq_zero_iff_pixelDiff.mp h i (List.mem_range.mp hi)
  rw [hdiff, if_neg (Nat.not_lt_zero _)]

/-! ### The outcomes of HIST -/

theorem exec_hist_error {s : State} {code : ErrCode} (h : stageHist Config.params s = .error ⟨code, 0x04, 0⟩) :
    exec .hist s = .next (s.failed code.number.toNat 4) :=
  (exec_eq_runCommand .hist s).trans (congrArg _ ((runCommand_cons_error h).trans (raise_eq_failed s code 0x04)))

theorem byteAt_commitHist_outside (counted : List Byte) (k n : Nat) (s : State) {a : Nat}
    (h : a < 0x00001000 ∨ 0x00001400 ≤ a) : (commitHist (histBinsOf counted) k n s).byteAt a = s.byteAt a := by
  refine byteAt_write_outside s.mem s.epoch 0x00001000 a _ ?_
  rw [flatMap_length_const _ 4 fun x => wordElemBytes_length (BitVec.ofNat 32 x), histBinsOf, List.length_map,
    List.length_range]
  exact h

/-- The state after a HIST that commits (R103, R110). -/
def State.afterHist (s : State) : State :=
  (commitHist (histBinsOf (histCounted s.thresholdValue s.frameDiffs)) s.frameK s.frameCount s).complete

section
variable {s : State} (hlegal : s.GeometryLegal)
include hlegal

theorem exec_hist_commit (hvalid : s.vF8in = true) : exec .hist s = .next s.afterHist := by
  refine (exec_eq_runCommand .hist s).trans (congrArg _ (runCommand_single_ok ?_))
  rw [stageHist_eq, if_pos ((dimsOk_iff s).mpr hlegal), if_pos hvalid, backDiffs_f8inPixels, histK_frameDiffs,
    length_histCounted_frameDiffs]

/-- A legal frame has at most MAX_PIXELS pixels, so that K, COUNT and the bins fit 32 bits (R48). -/
theorem k_afterHist : s.afterHist.k.toNat = s.frameK := by
  have hpixels : s.pixels ≤ 327680 := hlegal.2.2
  have hle := s.frameK_le
  exact (BitVec.toNat_ofNat _ _).trans (Nat.mod_eq_of_lt (by omega))

theorem count_afterHist : s.afterHist.count.toNat = s.frameCount := by
  have hpixels : s.pixels ≤ 327680 := hlegal.2.2
  have hle := s.frameCount_le
  exact (BitVec.toNat_ofNat _ _).trans (Nat.mod_eq_of_lt (by omega))

theorem histAt_afterHist {v : Nat} (hv : v < 256) : s.afterHist.histAt v = s.frameHist v := by
  have hpixels : s.pixels ≤ 327680 := hlegal.2.2
  have hcount := s.frameCount_le
  have hbin := s.frameHist_le v
  refine (histAt_commitHist _ s.frameK s.frameCount s v _ (histBinsOf_getElem _ v hv)).trans ?_
  rw [countP_histCounted_frameDiffs]
  exact Nat.mod_eq_of_lt (by omega)

end

/-- Settles O16: the checks, then the commit of the statistics, which the model's scan of F8IN makes as sums in row-major
order. -/
theorem histFollowsItsRule : Obligations.HistFollowsItsRule := by
  refine fun s => ⟨fun hillegal => ?_, fun hlegal hinvalid => ?_, fun hlegal hvalid => ?_⟩
  · refine exec_hist_error (code := .invalidDimensions) ?_
    rw [stageHist_eq, if_neg (mt (dimsOk_iff s).mp hillegal)]
  · refine exec_hist_error (code := .sequence) ?_
    rw [stageHist_eq, if_pos ((dimsOk_iff s).mpr hlegal), hinvalid]
    rfl
  · exact ⟨s.afterHist, exec_hist_commit hlegal hvalid, k_afterHist hlegal, count_afterHist hlegal,
      fun v hv => histAt_afterHist hlegal hv, fun a ha => byteAt_commitHist_outside _ s.frameK s.frameCount s ha, rfl⟩

/-- Settles O17: the statistics are the sums of O16, so that K = 0 leaves no back-difference above 0, hence no pixel above 0
and none to count. -/
theorem histStatisticsAreConsistent : Obligations.HistStatisticsAreConsistent := by
  intro s t hlegal hvalid hexec
  obtain rfl : s.afterHist = t := Host.Outcome.next.inj ((exec_hist_commit hlegal hvalid).symm.trans hexec)
  have hk : s.afterHist.k = 0 ↔ s.frameK = 0 := by
    rw [← k_afterHist hlegal, ← BitVec.toNat_inj]
    rfl
  have hbins : (List.range 256).map s.afterHist.histAt = (List.range 256).map s.frameHist :=
    List.map_congr_left fun v hv => histAt_afterHist hlegal (List.mem_range.mp hv)
  refine ⟨?_, hk.trans s.frameK_eq_zero_iff, fun hzero => ?_⟩
  · rw [count_afterHist hlegal, hbins, s.sum_frameHist]
  · have hcount : s.frameCount = 0 := State.frameCount_eq_zero (hk.mp hzero)
    refine ⟨BitVec.eq_of_toNat_eq ((count_afterHist hlegal).trans hcount), fun v hv => ?_⟩
    rw [histAt_afterHist hlegal hv]
    exact Nat.eq_zero_of_le_zero (hcount ▸ s.frameHist_le v)

end Sys2Proof.Machine

/-! ## The steps of TONE on small statistics, by running the model

The examples run before the proofs. A structure follows them, at which Lean waits for the kernel's check of all that
stands above: so the memory that the tests' check takes is free again when the proofs are elaborated. -/

namespace Sys2Proof.Machine

/-- The default gain, 10.0 (R27). -/
def defaultGain : F64 := 0x4024000000000000

/-! ### Step 2: kg, e and k' (R111 to R114) -/

example : ∀ i < 12, ∀ j < 8, fmul (f64OfNat (8 * i + j)) defaultGain = f64OfNat (10 * (8 * i + j)) := by decide

example : ∀ i < 12, ∀ j < 8, feq (fmul (f64OfNat (8 * i + j)) defaultGain) 0 = decide (8 * i + j = 0) := by decide

example : ∀ i < 12, ∀ j < 8,
    flt f64_half (ldexp (f64OfNat (8 * i + j + 1)) (-leastExponent (f64OfNat (8 * i + j + 1)))) = true := by decide

example : ∀ i < 12, ∀ j < 8,
    flt f64_1 (ldexp (f64OfNat (8 * i + j + 1)) (-leastExponent (f64OfNat (8 * i + j + 1)))) = false := by decide

/-! ### Step 3: u, and the two ends of the blend (R115, R116) -/

example : ∀ i < 12, ∀ j < 8, fmul (toneU (8 * i + j)) f64_256 = f64OfNat (8 * i + j) := by decide

example : ∀ i < 12, ∀ j < 8, toneU (8 * i + j) = ldexp (f64OfNat (8 * i + j)) (-8) := by decide

example : ∀ i < 12, ∀ j < 8,
    toneModhist Config.params 0 (toneU (64 * i)) [8 * i + j] = [(64 * i + 128) / 256] := by decide

example : ∀ i < 12, ∀ j < 8, toneModhist Config.params f64_1 (toneU i) [8 * i + j] = [8 * i + j] := by decide

/-! ### Steps 4 to 6: the PDF, its ends and the running sums (R119, R120, R124) -/

example : ∀ i < 12, ∀ j < 8, tonePdf 1 [8 * i + j] = [f64OfNat (8 * i + j)] := by decide

example : ∀ i < 12, ∀ j < 8, tonePdf (8 * i + j + 1) [8 * i + j + 1] = [f64_1] := by decide

example : ∀ i < 12, ∀ j < 8, pdfMax [f64OfNat i, f64OfNat j] = f64OfNat (max i j) := by decide

example : ∀ i < 12, ∀ j < 8, toneSum (toneCumulative [f64OfNat i, f64OfNat j]) = f64OfNat (i + j) := by decide

/-! ### Step 7: the conversion and its clamp (R127) -/

example : ∀ i < 12, ∀ j < 8, flt (tableReal (f64OfNat i) (f64OfNat j)) 0 = false := by decide

example : ∀ i < 12, ∀ j < 8, flt toneScale (tableReal (f64OfNat i) (f64OfNat j)) = false := by decide

end Sys2Proof.Machine

/-! ## The levels of the state: what each stage of a command reads and what it writes -/

namespace Sys2Proof.Machine

/-- The level of a buffer: 0 for the host's, and above it the place of the stage that writes the buffer (R153). -/
def Buffer.level : Buffer → Nat
  | .raw => 0
  | .f16 => 1
  | .f8in => 2
  | .hist => 3
  | .mhist | .pdf | .pdfw | .cdfw | .lut => 4
  | .f8out => 5

/-- The flags, the registers and the 64-bit quantities of a level: the configuration that the stages read at level 0,
and above it what the level's stage sets (R18, R24, R35). -/
def State.levelRegs (s : State) : Nat → List Bool × List Word × List F64
  | 0 => ([], [s.ctrl, s.width, s.height, s.rawLen, s.threshold], [s.gain])
  | 1 => ([s.vF16], [], [])
  | 2 => ([s.vF8in, s.fallback.getLsbD 0], [s.minv, s.maxv], [])
  | 3 => ([s.vStats], [s.k, s.count], [])
  | 4 => ([s.vTone, s.fallback.getLsbD 1, s.fallback.getLsbD 2], [s.kexp],
      [s.kg, s.kprime, s.u, s.pdfmin, s.pdfmax, s.cdfsum])
  | _ => ([s.vOut], [], [])

/-- z has what x has at every level below k. -/
structure State.AgreesBelow (k : Nat) (x z : State) : Prop where
  epoch : z.epoch = x.epoch
  regs : ∀ l < k, z.levelRegs l = x.levelRegs l
  bytes : ∀ a b, bufferAt Config.params a = some b → b.level < k → z.mem.written a = x.mem.written a

section
variable (s : State)

@[simp] theorem levelRegs_config :
    s.levelRegs 0 = ([], [s.ctrl, s.width, s.height, s.rawLen, s.threshold], [s.gain]) := rfl
@[simp] theorem levelRegs_load : s.levelRegs 1 = ([s.vF16], [], []) := rfl
@[simp] theorem levelRegs_compress :
    s.levelRegs 2 = ([s.vF8in, s.fallback.getLsbD 0], [s.minv, s.maxv], []) := rfl
@[simp] theorem levelRegs_hist : s.levelRegs 3 = ([s.vStats], [s.k, s.count], []) := rfl
@[simp] theorem levelRegs_tone :
    s.levelRegs 4 = ([s.vTone, s.fallback.getLsbD 1, s.fallback.getLsbD 2], [s.kexp],
      [s.kg, s.kprime, s.u, s.pdfmin, s.pdfmax, s.cdfsum]) := rfl
@[simp] theorem levelRegs_remap : s.levelRegs 5 = ([s.vOut], [], []) := rfl

theorem vF16_eq : s.vF16 = s.valid.getLsbD 0 := rfl
theorem vF8in_eq : s.vF8in = s.valid.getLsbD 1 := rfl
theorem vStats_eq : s.vStats = s.valid.getLsbD 2 := rfl
theorem vTone_eq : s.vTone = s.valid.getLsbD 3 := rfl
theorem vOut_eq : s.vOut = s.valid.getLsbD 4 := rfl

end

end Sys2Proof.Machine

/-! ## Values that are not negative: their order, and bounds that every operation of TONE keeps -/

namespace Sys2Proof.Machine

/-! ### The order of values that are not negative -/

/-- x is +0, a positive finite value or +infinity: its sign is 0 and it is no NaN. -/
def NonNeg (x : F64) : Prop := f64Sign x = false ∧ f64Mag x ≤ f64Inf

theorem nonNeg_zero : NonNeg 0 := ⟨rfl, by decide⟩

/-- What a rounding gives with sign 0 is no NaN: an overflow is infinity. -/
theorem nonNeg_round (num den : Nat) : NonNeg (f64Round false num den) :=
  ⟨(f64Round_spec _ _ _).2, (f64Round_spec _ _ _).1.trans_le (roundMag_le num den)⟩

theorem nonNeg_ofNat (n : Nat) : NonNeg (f64OfNat n) := nonNeg_round _ _

/-- A finite value > 0 has sign 0, and counts at least one least subnormal. -/
theorem nonNeg_of_pos {x : F64} (hfin : isfinite x = true) (hpos : flt 0 x = true) : NonNeg x ∧ 0 < f64Units x :=
  ⟨⟨(sign_mag_of_pos hpos).1, ((isfinite_iff x).mp hfin).le⟩,
    (Nat.zero_le _).trans_lt (magUnits_strictMono (sign_mag_of_pos hpos).2)⟩

theorem isnan_of_nonNeg {x : F64} (h : NonNeg x) : isnan x = false := by
  simpa [isnan] using h.2

theorem f64Order_of_nonNeg {x : F64} (h : NonNeg x) : f64Order x = (f64Mag x : Int) := by
  rw [f64Order, h.1]
  rfl

/-- An encoding is its sign bit and its magnitude. -/
theorem eq_of_sign_mag {x y : F64} (hsign : f64Sign x = f64Sign y) (hmag : f64Mag x = f64Mag y) : x = y := by
  have hmsb : x.msb = y.msb := by
    rw [BitVec.msb_eq_getLsbD_last, BitVec.msb_eq_getLsbD_last]
    exact hsign
  have hx : x.toNat < 2 ^ 64 := x.isLt
  have hy : y.toNat < 2 ^ 64 := y.isLt
  refine BitVec.eq_of_toNat_eq ?_
  rw [BitVec.msb_eq_decide, BitVec.msb_eq_decide, decide_eq_decide] at hmsb
  unfold f64Mag at hmag
  omega

section
variable {x y : F64} (hx : NonNeg x) (hy : NonNeg y)
include hx hy

theorem flt_iff_mag : flt x y = true ↔ f64Mag x < f64Mag y := by
  simp [flt, isnan_of_nonNeg hx, isnan_of_nonNeg hy, f64Order_of_nonNeg hx, f64Order_of_nonNeg hy]

theorem flt_iff : flt x y = true ↔ f64Units x < f64Units y :=
  (flt_iff_mag hx hy).trans magUnits_strictMono.lt_iff_lt.symm

theorem flt_eq_false_iff : flt x y = false ↔ f64Units y ≤ f64Units x := by
  rw [← Bool.not_eq_true, flt_iff hx hy, Nat.not_lt]

theorem feq_iff : feq x y = true ↔ f64Units x = f64Units y := by
  rw [f64Units_eq_magUnits, f64Units_eq_magUnits, magUnits_strictMono.injective.eq_iff]
  simp [feq, isnan_of_nonNeg hx, isnan_of_nonNeg hy, f64Order_of_nonNeg hx, f64Order_of_nonNeg hy]

/-- Values that are not negative have one encoding each. -/
theorem eq_of_units_eq (h : f64Units x = f64Units y) : x = y :=
  eq_of_sign_mag (hx.1.trans hy.1.symm) (magUnits_strictMono.injective h)

end

@[simp] theorem f64Units_zero : f64Units 0 = 0 := by decide

theorem f64Units_1 : f64Units f64_1 = f64One := by
  have hmag : f64Mag f64_1 = 1022 * 0x10000000000000 + 0x10000000000000 := by decide
  rw [f64Units_eq_magUnits, hmag, magUnits_binade, f64One_eq_mul (a := 1022) (b := 52) rfl, pow_add]

theorem two_mul_f64Units_half : 2 * f64Units f64_half = f64One := by
  have hmag : f64Mag f64_half = 1021 * 0x10000000000000 + 0x10000000000000 := by decide
  rw [f64Units_eq_magUnits, hmag, magUnits_binade, f64One_eq_mul (a := 1) (b := 1073) rfl, pow_one]

theorem f64Units_10 : f64Units (0x4024000000000000 : F64) = 10 * f64One := by
  have hmag : f64Mag 0x4024000000000000 = 1025 * 0x10000000000000 + 10 * 2 ^ 49 := by decide
  rw [f64Units_eq_magUnits, hmag, magUnits_encode _ _ (.inr (by decide)) (by decide),
    f64One_eq_mul (a := 49) (b := 1025) rfl, ← Nat.mul_assoc]

theorem nonNeg_1 : NonNeg f64_1 := ⟨rfl, by decide⟩

theorem nonNeg_half : NonNeg f64_half := ⟨rfl, by decide⟩

end Sys2Proof.Machine

/-! ## Settling O23 and O24: the blend factor is an exact scaling, and kg is 0 only for K = 0 -/

namespace Sys2Proof.Machine

/-! ### The product of K and the gain -/

/-- With K ≥ 1 the product is at least the gain, which is at least one least subnormal (R114). -/
theorem f64Units_fmul_ofNat_pos {k : Nat} {g : F64} (hk : k < 2 ^ 53) (hpos : 0 < k) (hfin : isfinite g = true)
    (hg : 0 < f64Units g) : 0 < f64Units (fmul (f64OfNat k) g) := by
  obtain ⟨hkfin, hkunits⟩ := f64OfNat_exact hk
  have hone : magUnits 1 * f64One ≤ k * f64One * f64Units g := by
    calc magUnits 1 * f64One = 1 * f64One * 1 := by rw [Nat.mul_one]; rfl
      _ ≤ k * f64One * f64Units g := Nat.mul_le_mul (Nat.mul_le_mul_right _ hpos) hg
  rw [fmul_of_finite hkfin hfin, hkunits, f64Units_eq_magUnits, (f64Round_spec _ _ _).1]
  calc 0 < magUnits (roundMag (magUnits 1) 1) := by rw [roundMag_magUnits (by decide)]; decide
    _ ≤ _ := magUnits_strictMono.monotone (roundMag_mono one_pos f64One_pos (by rwa [Nat.mul_one]))

theorem fmul_nonNeg_of_finite {a b : F64} (ha : isfinite a = true) (hb : isfinite b = true) (hsa : f64Sign a = false)
    (hsb : f64Sign b = false) : fmul a b = f64Round false (f64Units a * f64Units b) f64One := by
  rw [fmul_of_finite ha hb, hsa, hsb, bne_self_eq_false]

/-- `kg` of TONE is 0 exactly when K is (R114). -/
theorem feq_fmul_ofNat_zero_iff {k : Nat} {g : F64} (hk : k < 2 ^ 53) (hfin : isfinite g = true)
    (hpos : flt 0 g = true) : feq (fmul (f64OfNat k) g) 0 = true ↔ k = 0 := by
  obtain ⟨hg, hunits⟩ := nonNeg_of_pos hfin hpos
  have hround := fmul_nonNeg_of_finite (f64OfNat_exact hk).1 hfin (f64Sign_ofNat k) hg.1
  have hkg : NonNeg (fmul (f64OfNat k) g) := hround ▸ nonNeg_round _ _
  rw [feq_iff hkg nonNeg_zero, f64Units_zero]
  constructor
  · intro hzero
    by_contra hne
    exact (f64Units_fmul_ofNat_pos hk (Nat.pos_of_ne_zero hne) hfin hunits).ne' hzero
  · rintro rfl
    rw [hround, (f64OfNat_exact hk).2, f64Units_eq_magUnits, (f64Round_spec _ _ _).1, Nat.zero_mul, Nat.zero_mul,
      roundMag_zero]
    rfl

/-- The product of two exact integers is the conversion of their product. -/
theorem fmul_ofNat {m n : Nat} (hm : m < 2 ^ 53) (hn : n < 2 ^ 53) :
    fmul (f64OfNat m) (f64OfNat n) = f64OfNat (m * n) := by
  obtain ⟨hmfin, hmunits⟩ := f64OfNat_exact hm
  obtain ⟨hnfin, hnunits⟩ := f64OfNat_exact hn
  rw [fmul_nonNeg_of_finite hmfin hnfin (f64Sign_ofNat m) (f64Sign_ofNat n), hmunits, hnunits, f64OfNat_eq_round]
  exact congrArg (f64Make false) (roundMag_congr f64One_pos one_pos (by ring))

/-- Settles O24: for K ≥ 1 the exact product is at least one least subnormal, so that it is not rounded to 0; and a
product of integers with an encoding is exact. -/
theorem kgIsZeroExactlyWhenKIs : Obligations.KgIsZeroExactlyWhenKIs := by
  refine ⟨fun k g hk hfin hpos => feq_fmul_ofNat_zero_iff (by omega) hfin hpos, fun k hk => ?_⟩
  have hten : (0x4024000000000000 : F64) = f64OfNat 10 :=
    eq_of_units_eq ⟨rfl, by decide⟩ (nonNeg_ofNat 10) (Eq.trans f64Units_10 (f64OfNat_exact (by decide)).2.symm)
  rw [hten, fmul_ofNat (by omega) (by decide), Nat.mul_comm]

/-! ### The least power of two, and the scaling by it -/

theorem ceilLog2_spec {n : Nat} (h : 0 < n) : n ≤ 2 ^ ceilLog2 n ∧ ∀ m < ceilLog2 n, 2 ^ m < n := by
  have hge : 2 ^ Nat.log2 n ≤ n := Nat.log2_self_le h.ne'
  have hlt : n < 2 ^ (Nat.log2 n + 1) := Nat.lt_log2_self
  rw [ceilLog2, binLog_eq_log2, one_shiftLeft_eq_two_pow]
  split
  · rename_i hpower
    exact ⟨hpower.ge, fun m hm => hpower ▸ Nat.pow_lt_pow_right Nat.one_lt_two hm⟩
  · rename_i hpower
    exact ⟨hlt.le, fun m hm => (Nat.pow_le_pow_right two_pos (Nat.le_of_lt_succ hm)).trans_lt (hge.lt_of_ne hpower)⟩

/-- No smaller power of two reaches n, so that n is above half of its power. -/
theorem two_pow_ceilLog2_lt {n : Nat} (h : 0 < n) : 2 ^ ceilLog2 n < 2 * n := by
  have hleast := (ceilLog2_spec h).2
  cases hc : ceilLog2 n with
  | zero => rw [pow_zero]; omega
  | succ c => rw [pow_succ']; exact Nat.mul_lt_mul_of_pos_left (hleast c (by omega)) two_pos

theorem eq_two_pow_ceilLog2_iff {n : Nat} (h : 0 < n) : n = 2 ^ ceilLog2 n ↔ ∃ m, n = 2 ^ m := by
  refine ⟨fun hpower => ⟨_, hpower⟩, fun ⟨m, hpower⟩ => ?_⟩
  obtain ⟨hle, hleast⟩ := ceilLog2_spec h
  have hm : m ≤ ceilLog2 n := (Nat.pow_le_pow_iff_right Nat.one_lt_two).mp (hpower ▸ hle)
  obtain hlt | rfl := hm.lt_or_eq
  · exact absurd (hleast m hlt) hpower.not_gt
  · exact hpower

theorem two_pow_add_1074 (n : Nat) : 2 ^ (n + 1074) = 2 ^ n * f64One := by
  rw [f64One_eq_mul (a := 0) (b := 1074) rfl, pow_zero, Nat.one_mul, pow_add]

/-- The scaling by 2^(1074 - c), whatever the sign of the exponent, is a division of least subnormals by 2^c. -/
theorem ldexp_neg (x : F64) (c : Nat) :
    ldexp x (-((c : Int) - 1074)) = f64Round (f64Sign x) (f64Units x * f64One) (2 ^ c) := by
  obtain ⟨d, hd⟩ | ⟨d, hd⟩ : (∃ d, c + d = 1074) ∨ ∃ d, c = d + 1 + 1074 := by
    by_cases h : c ≤ 1074
    · exact .inl ⟨1074 - c, by omega⟩
    · exact .inr ⟨c - 1075, by omega⟩
  · rw [show -((c : Int) - 1074) = Int.ofNat d by rw [Int.ofNat_eq_natCast]; omega]
    refine congrArg (f64Make _) (roundMag_congr one_pos (Nat.two_pow_pos c) ?_)
    rw [f64One_eq_mul hd, Nat.shiftLeft_eq]
    ring
  · rw [show -((c : Int) - 1074) = Int.negSucc d by rw [Int.negSucc_eq]; omega]
    refine congrArg (f64Make _) (roundMag_congr (by rw [one_shiftLeft_eq_two_pow]; exact Nat.two_pow_pos _)
      (Nat.two_pow_pos c) ?_)
    rw [hd, two_pow_add_1074, one_shiftLeft_eq_two_pow]
    ring

/-- The scaling into (1/2, 1] is exact: of the encoding k·2^e it keeps the significand k (R112). -/
theorem f64Units_ldexp_leastExponent {x : F64} (hpos : 0 < f64Units x) :
    f64Units (ldexp x (-(leastExponent x))) * 2 ^ ceilLog2 (f64Units x) = f64Units x * f64One := by
  obtain ⟨e, k, hmag, hlow, hhigh⟩ := exists_encode (f64Mag x)
  have hunits : f64Units x = k * 2 ^ e := by rw [f64Units_eq_magUnits, hmag, magUnits_encode e k hlow hhigh.le]
  have hk : 0 < k := Nat.pos_of_mul_pos_right (hunits ▸ hpos)
  obtain ⟨hle, hleast⟩ := ceilLog2_spec hpos
  have hec : e ≤ ceilLog2 (f64Units x) := by
    refine (Nat.pow_le_pow_iff_right Nat.one_lt_two).mp (le_trans ?_ hle)
    rw [hunits]
    exact Nat.le_mul_of_pos_left _ hk
  have hce : ceilLog2 (f64Units x) ≤ e + 53 := by
    by_contra hlt
    have := hleast (53 + e) (by omega)
    rw [pow_add, hunits] at this
    exact absurd (Nat.lt_of_mul_lt_mul_right this) (by omega)
  rw [leastExponent, ldexp_neg]
  generalize ceilLog2 (f64Units x) = c at *
  obtain ⟨t, ht⟩ : ∃ t, c + t = e + 1074 := ⟨e + 1074 - c, by omega⟩
  obtain ⟨m, hfin, hm⟩ := exists_magUnits_eq_mul_two_pow (n := k) (t := t) hhigh (by omega) (by omega)
  have hexact : magUnits m * 2 ^ c = f64Units x * f64One := by
    calc magUnits m * 2 ^ c = k * 2 ^ (c + t) := by rw [hm, pow_add]; ring
      _ = f64Units x * f64One := by rw [ht, two_pow_add_1074, hunits, Nat.mul_assoc]
  have hround : roundMag (f64Units x * f64One) (2 ^ c) = m := by
    rw [← roundMag_magUnits hfin.le]
    exact roundMag_congr (Nat.two_pow_pos c) one_pos (by rw [Nat.mul_one, hexact])
  rw [f64Units_eq_magUnits, (f64Round_spec _ _ _).1, hround, hexact]

/-- `k'` lies in (0.5, 1]; it is 1 exactly where the scaled value is its power of two (R112). -/
theorem ldexp_leastExponent_range {x : F64} (hx : NonNeg x) (hpos : 0 < f64Units x) :
    NonNeg (ldexp x (-(leastExponent x))) ∧ f64Units f64_half < f64Units (ldexp x (-(leastExponent x))) ∧
      f64Units (ldexp x (-(leastExponent x))) ≤ f64One ∧
      (f64Units (ldexp x (-(leastExponent x))) = f64One ↔ f64Units x = 2 ^ ceilLog2 (f64Units x)) := by
  have hexact := f64Units_ldexp_leastExponent hpos
  have hle := (ceilLog2_spec hpos).1
  have hlt := two_pow_ceilLog2_lt hpos
  have hhalf := two_mul_f64Units_half
  have hone := f64One_pos
  have hnonneg : NonNeg (ldexp x (-(leastExponent x))) := by
    rw [leastExponent, ldexp_neg, hx.1]
    exact nonNeg_round _ _
  have hpow : 0 < 2 ^ ceilLog2 (f64Units x) := Nat.two_pow_pos _
  generalize f64Units (ldexp x (-(leastExponent x))) = y at *
  generalize 2 ^ ceilLog2 (f64Units x) = p at *
  refine ⟨hnonneg, ?_, ?_, ?_⟩
  · have : f64One * p < 2 * y * p := by nlinarith
    have := Nat.lt_of_mul_lt_mul_right this
    omega
  · refine Nat.le_of_mul_le_mul_right ?_ hpow
    nlinarith
  · constructor
    · rintro rfl
      rw [Nat.mul_comm] at hexact
      exact (Nat.eq_of_mul_eq_mul_right hone hexact).symm
    · intro heq
      rw [heq, Nat.mul_comm] at hexact
      exact Nat.eq_of_mul_eq_mul_left hpow hexact

/-- A finite value is below 2^1024, which is 2^2098 least subnormals. -/
theorem ceilLog2_le_of_finite {x : F64} (hfin : isfinite x = true) (hpos : 0 < f64Units x) :
    ceilLog2 (f64Units x) ≤ 2098 := by
  have hleast := (ceilLog2_spec hpos).2
  obtain ⟨e, he⟩ : ∃ e, e = 2046 := ⟨2046, rfl⟩
  have hinf : f64Units x < 2 ^ (e + 52) := by
    rw [← magUnits_binade, he]
    exact magUnits_strictMono ((isfinite_iff x).mp hfin)
  cases hc : ceilLog2 (f64Units x) with
  | zero => exact Nat.zero_le _
  | succ c =>
    have hlt := (hleast c (by omega)).trans hinf
    rw [Nat.pow_lt_pow_iff_right Nat.one_lt_two] at hlt
    omega

/-- Settles O23: the exponent is the ceiling of a binary logarithm of the count of least subnormals, and the scaling
keeps the significand, so that it is exact. -/
theorem blendFactorLiesAboveOneHalf : Obligations.BlendFactorLiesAboveOneHalf := by
  intro kg hfin hpos
  obtain ⟨hkg, hunits⟩ := nonNeg_of_pos hfin hpos
  obtain ⟨hle, hleast⟩ := ceilLog2_spec hunits
  obtain ⟨hfactor, hhalf, hone, hpower⟩ := ldexp_leastExponent_range hkg hunits
  have hexp : leastExponent kg + 1074 = (ceilLog2 (f64Units kg) : Int) := Int.sub_add_cancel _ _
  have hbound := ceilLog2_le_of_finite hfin hunits
  refine ⟨by omega, by omega, ?_, ?_, ?_, ?_, ?_, ?_⟩
  · rwa [hexp]
  · rwa [hexp]
  · rw [hexp]
    exact f64Units_ldexp_leastExponent hunits
  · exact (flt_iff nonNeg_half hfactor).mpr hhalf
  · refine (flt_eq_false_iff nonNeg_1 hfactor).mpr ?_
    rwa [f64Units_1]
  · refine (feq_iff hfactor nonNeg_1).trans ?_
    rw [f64Units_1]
    exact hpower.trans (eq_two_pow_ceilLog2_iff hunits)

end Sys2Proof.Machine

/-! ## Settling O18 and O19: TONE, its steps bin by bin, its errors, and what it commits -/

namespace Sys2Proof.Machine

/-! ### The scans for the least and the greatest element -/

/-- A scan that takes one of two values at each element, in the order of r, ends at an element that comes first in r. -/
theorem foldl_select {op : F64 → F64 → F64} {r : F64 → F64 → Prop} (hrefl : ∀ x, r x x)
    (htrans : ∀ x y z, r x y → r y z → r x z)
    (hop : ∀ x y, NonNeg x → NonNeg y → NonNeg (op x y) ∧ (op x y = x ∨ op x y = y) ∧ r (op x y) x ∧ r (op x y) y)
    (xs : List F64) (acc : F64) (hacc : NonNeg acc) (hxs : ∀ x ∈ xs, NonNeg x) :
    xs.foldl op acc ∈ acc :: xs ∧ ∀ x ∈ acc :: xs, r (xs.foldl op acc) x := by
  induction xs generalizing acc with
  | nil => exact ⟨List.mem_singleton_self _, fun x hx => List.mem_singleton.mp hx ▸ hrefl _⟩
  | cons y ys ih =>
    obtain ⟨hnonneg, hsel, hleft, hright⟩ := hop acc y hacc (hxs y List.mem_cons_self)
    obtain ⟨hmem, hfirst⟩ := ih (op acc y) hnonneg fun x hx => hxs x (List.mem_cons_of_mem _ hx)
    have hbelow := hfirst _ List.mem_cons_self
    simp only [List.foldl_cons, List.mem_cons, forall_eq_or_imp] at hmem hfirst ⊢
    refine ⟨?_, htrans _ _ _ hbelow hleft, htrans _ _ _ hbelow hright, hfirst.2⟩
    obtain heq | hys := hmem
    · rw [heq]
      exact hsel.imp id .inl
    · exact .inr (.inr hys)

theorem foldl_select_headD {op : F64 → F64 → F64} {r : F64 → F64 → Prop} (hrefl : ∀ x, r x x)
    (htrans : ∀ x y z, r x y → r y z → r x z)
    (hop : ∀ x y, NonNeg x → NonNeg y → NonNeg (op x y) ∧ (op x y = x ∨ op x y = y) ∧ r (op x y) x ∧ r (op x y) y)
    {xs : List F64} (hne : xs ≠ []) (hxs : ∀ x ∈ xs, NonNeg x) :
    xs.foldl op (xs.headD 0) ∈ xs ∧ ∀ x ∈ xs, r (xs.foldl op (xs.headD 0)) x := by
  obtain ⟨x, ys, rfl⟩ := List.exists_cons_of_ne_nil hne
  obtain ⟨hmem, hfirst⟩ := foldl_select hrefl htrans hop (x :: ys) x (hxs x List.mem_cons_self) hxs
  exact ⟨(List.mem_cons.mp hmem).elim (fun h => List.mem_cons.mpr (.inl h)) id,
    fun y hy => hfirst y (List.mem_cons_of_mem _ hy)⟩

theorem fmin_select (x y : F64) (hx : NonNeg x) (hy : NonNeg y) : NonNeg (fmin x y) ∧ (fmin x y = x ∨ fmin x y = y) ∧
    f64Units (fmin x y) ≤ f64Units x ∧ f64Units (fmin x y) ≤ f64Units y := by
  rw [fmin]
  split
  · rename_i hlt
    exact ⟨hy, .inr rfl, ((flt_iff hy hx).mp hlt).le, le_rfl⟩
  · rename_i hge
    exact ⟨hx, .inl rfl, le_rfl, (flt_eq_false_iff hy hx).mp (Bool.eq_false_iff.mpr hge)⟩

theorem fmax_select (x y : F64) (hx : NonNeg x) (hy : NonNeg y) : NonNeg (fmax x y) ∧ (fmax x y = x ∨ fmax x y = y) ∧
    f64Units x ≤ f64Units (fmax x y) ∧ f64Units y ≤ f64Units (fmax x y) := by
  rw [fmax]
  split
  · rename_i hlt
    exact ⟨hy, .inr rfl, ((flt_iff hx hy).mp hlt).le, le_rfl⟩
  · rename_i hge
    exact ⟨hx, .inl rfl, le_rfl, (flt_eq_false_iff hx hy).mp (Bool.eq_false_iff.mpr hge)⟩

section
variable {pdf : List F64} {x : F64} (hpdf : ∀ y ∈ pdf, NonNeg y) (hx : x ∈ pdf)
include hpdf hx

/-- `pdf_min` is the element that no other lies below (R120). -/
theorem pdfMin_eq (hleast : ∀ y ∈ pdf, flt y x = false) : pdfMin pdf = x := by
  obtain ⟨hmem, hle⟩ := foldl_select_headD (r := fun a b => f64Units a ≤ f64Units b) (fun _ => le_rfl)
    (fun _ _ _ => le_trans) fmin_select (List.ne_nil_of_mem hx) hpdf
  exact eq_of_units_eq (hpdf _ hmem) (hpdf x hx)
    (le_antisymm (hle x hx) ((flt_eq_false_iff (hpdf _ hmem) (hpdf x hx)).mp (hleast _ hmem)))

/-- `pdf_max` is the element that no other lies above (R120). -/
theorem pdfMax_eq (hgreatest : ∀ y ∈ pdf, flt x y = false) : pdfMax pdf = x := by
  obtain ⟨hmem, hge⟩ := foldl_select_headD (r := fun a b => f64Units b ≤ f64Units a) (fun _ => le_rfl)
    (fun _ _ _ h h' => le_trans h' h) fmax_select (List.ne_nil_of_mem hx) hpdf
  exact eq_of_units_eq (hpdf _ hmem) (hpdf x hx)
    (le_antisymm ((flt_eq_false_iff (hpdf x hx) (hpdf _ hmem)).mp (hgreatest _ hmem)) (hge x hx))

end

/-! ### The running sums -/

theorem cumulate_append (c : F64) (xs ys : List F64) :
    cumulate c (xs ++ ys) = cumulate c xs ++ cumulate ((cumulate c xs).getLastD c) ys := by
  induction xs generalizing c with
  | nil => rfl
  | cons x xs ih =>
    rw [List.cons_append, cumulate, cumulate, ih, List.getLastD_cons, List.cons_append]

theorem getLastD_map_range (f : Nat → F64) (n : Nat) (d : F64) : ((List.range (n + 1)).map f).getLastD d = f n := by
  rw [List.range_succ, List.map_append]
  exact List.getLastD_concat

/-- The model's cumulative list is the running sum at each bin (R124). -/
theorem toneCumulative_map_range (x : Nat → F64) (n : Nat) :
    toneCumulative ((List.range n).map x) = (List.range n).map (runningSum x) := by
  induction n with
  | zero => rfl
  | succ n ih =>
    rw [List.range_succ, List.map_append, List.map_append, toneCumulative, cumulate_append]
    refine congrArg₂ _ ih ?_
    rw [← toneCumulative, ih]
    cases n with
    | zero => rfl
    | succ n => rw [getLastD_map_range]; rfl

/-! ### The steps bin by bin -/

/-- A list of n elements is its elements at 0 to n-1. -/
theorem eq_map_range {α : Type} {xs : List α} {n : Nat} {f : Nat → α} (hlen : xs.length = n)
    (h : ∀ i < n, xs[i]? = some (f i)) : xs = (List.range n).map f := by
  refine List.ext_getElem? fun i => ?_
  rw [List.getElem?_map]
  by_cases hi : i < n
  · rw [h i hi, List.getElem?_range hi]
    rfl
  · rw [List.getElem?_eq_none (by omega), List.getElem?_eq_none (by simpa using hi)]
    rfl

theorem histBins_eq (s : State) : s.histBins = (List.range 256).map fun i => s.wordAt (0x00001000 + 4 * i) :=
  eq_map_range (histBins_length s) (histBins_getElem s)

/-- Two steps on every element in one; the kernel would meet a composition by unfolding the arithmetic. -/
theorem map_map_apply {α β γ : Type} (f : α → β) (g : β → γ) (xs : List α) :
    (xs.map f).map g = xs.map fun x => g (f x) := List.map_map

/-- HIST[0..255] as natural numbers (R59). -/
theorem histBins_map_toNat (s : State) : (s.histBins.map fun w => w.toNat) = (List.range 256).map s.histAt := by
  rw [histBins_eq, map_map_apply]
  rfl

/-- Only a zero is equal to 0. -/
theorem f64Mag_eq_zero_of_feq {x : F64} (h : feq x 0 = true) : f64Mag x = 0 := by
  simp only [feq, Bool.and_eq_true, decide_eq_true_eq] at h
  have horder : f64Order x = 0 := h.2
  rw [f64Order] at horder
  split at horder <;> omega

theorem toneKg_eq (s : State) : fmul (f64OfNat s.k.toNat) s.gainValue = s.toneKg := rfl

theorem toneBlend_eq (kFallback : Bool) (k : Nat) (g : F64) :
    toneBlend kFallback k g =
      if feq (fmul (f64OfNat k) g) 0 = true then
        if kFallback then .ok ⟨fmul (f64OfNat k) g, 0, 0, true⟩ else .error ⟨.degenerateStatistics, 0x05, 2⟩
      else if isinf (fmul (f64OfNat k) g) then .error ⟨.degenerateStatistics, 0x05, 2⟩
      else .ok ⟨fmul (f64OfNat k) g, ldexp (fmul (f64OfNat k) g) (-(leastExponent (fmul (f64OfNat k) g))),
        leastExponent (fmul (f64OfNat k) g), false⟩ := rfl

/-- Step 2 finds no degenerate statistics (R111 to R113). -/
theorem toneBlend_ok {s : State} (hinf : isinf s.toneKg = false) (hzero : feq s.toneKg 0 = true → s.kFallback = true) :
    toneBlend s.kFallback s.k.toNat s.gainValue =
      .ok ⟨s.toneKg, s.toneKprime, s.toneExponent, feq s.toneKg 0⟩ := by
  rw [toneBlend_eq, toneKg_eq, State.toneKprime, State.toneExponent]
  by_cases hkg : feq s.toneKg 0 = true
  · rw [if_pos hkg, if_pos (hzero hkg), if_pos hkg, if_pos hkg, hkg]
  · rw [if_neg hkg, if_neg (Bool.eq_false_iff.mp hinf), if_neg hkg, if_neg hkg, Bool.eq_false_iff.mpr hkg]

/-- Step 2 raises (R113). -/
theorem toneBlend_error {s : State} (h : (feq s.toneKg 0 = true ∧ s.kFallback = false) ∨ isinf s.toneKg = true) :
    toneBlend s.kFallback s.k.toNat s.gainValue = .error ⟨.degenerateStatistics, 0x05, 2⟩ := by
  rw [toneBlend_eq, toneKg_eq]
  obtain ⟨hzero, hpolicy⟩ | hinf := h
  · rw [if_pos hzero, if_neg (Bool.eq_false_iff.mp hpolicy)]
  · have hzero : ¬ feq s.toneKg 0 = true := by
      intro hzero
      have hmag : f64Mag s.toneKg = f64Inf := of_decide_eq_true hinf
      exact absurd (hmag.symm.trans (f64Mag_eq_zero_of_feq hzero)) (by decide)
    rw [if_neg hzero, if_pos hinf]

/-- An element of the PDF is a quotient by N ≥ 1, so that it is no NaN (R119). -/
theorem nonNeg_fdiv_ofNat {x : F64} {n : Nat} (hx : NonNeg x) (hpos : 0 < n) (hn : n < 2 ^ 53) :
    NonNeg (fdiv x (f64OfNat n)) := by
  obtain ⟨hnfin, hnunits⟩ := f64OfNat_exact hn
  have hmag : f64Mag (f64OfNat n) ≠ 0 := by
    intro hzero
    rw [f64Units_eq_magUnits, hzero] at hnunits
    exact (Nat.mul_pos hpos f64One_pos).ne hnunits
  have hsign : (f64Sign x != f64Sign (f64OfNat n)) = false := by rw [hx.1, f64Sign_ofNat]; rfl
  by_cases hfin : isfinite x = true
  · rw [fdiv_of_finite hfin hnfin hmag, hsign]
    exact nonNeg_round _ _
  · have hinf : isinf x = true := by
      have hle := hx.2
      rw [isfinite_iff] at hfin
      exact decide_eq_true (by omega)
    have hquotient : fdiv x (f64OfNat n) = f64Infinity false := by
      simp only [fdiv, isnan_of_nonNeg hx, isnan_of_isfinite hnfin, hinf, isinf_of_isfinite hnfin, hsign]
      rfl
    rw [hquotient]
    exact ⟨f64Sign_make _ _ le_rfl, (f64Mag_make _ _ le_rfl).le⟩

theorem nonNeg_toneP {s : State} (h : s.GeometryLegal) (i : Nat) : NonNeg (s.toneP i) := by
  obtain ⟨hw, hh, hle⟩ := h
  exact nonNeg_fdiv_ofNat (nonNeg_ofNat _) (Nat.mul_pos hw hh) (by omega)

/-- Step 3 (R116). -/
theorem toneModhist_eq (s : State) :
    toneModhist Config.params s.toneKprime (toneU s.count.toNat) (s.histBins.map fun w => w.toNat) =
      (List.range 256).map s.toneMh := by
  have hround (x : F64) : modhistRound Config.params x = roundHalfAway x := rfl
  rw [histBins_map_toNat, toneModhist, map_map_apply]
  simp only [hround]
  rfl

/-- Step 4 (R119). -/
theorem tonePdf_eq (s : State) : tonePdf s.pixels ((List.range 256).map s.toneMh) = (List.range 256).map s.toneP := by
  rw [tonePdf, map_map_apply]
  rfl

section
variable {s : State} {lo hi : Nat} (hlegal : s.GeometryLegal) (h : s.ToneExtremes lo hi)
include hlegal h

/-- The scans find the extremes of the PDF (R120). -/
theorem pdfMin_toneP : pdfMin ((List.range 256).map s.toneP) = s.toneP lo := by
  obtain ⟨hlo, -, hleast, -⟩ := h
  refine pdfMin_eq (List.forall_mem_map.mpr fun i _ => nonNeg_toneP hlegal i)
    (List.mem_map_of_mem (List.mem_range.mpr hlo)) (List.forall_mem_map.mpr fun i hi => ?_)
  exact hleast i (List.mem_range.mp hi)

theorem pdfMax_toneP : pdfMax ((List.range 256).map s.toneP) = s.toneP hi := by
  obtain ⟨-, hhi, -, hgreatest⟩ := h
  refine pdfMax_eq (List.forall_mem_map.mpr fun i _ => nonNeg_toneP hlegal i)
    (List.mem_map_of_mem (List.mem_range.mpr hhi)) (List.forall_mem_map.mpr fun i hi => ?_)
  exact hgreatest i (List.mem_range.mp hi)

end

/-- Step 5 finds no degenerate PDF, or falls back (R121, R122). -/
theorem toneWeight_ok {s : State} {lo hi : Nat} (hflat : feq (s.toneP hi) (s.toneP lo) = true → s.pdfFallback = true) :
    toneWeight s.pdfFallback (s.toneP lo) (s.toneP hi) ((List.range 256).map s.toneP) =
      .ok ((List.range 256).map (s.tonePw lo hi), feq (s.toneP hi) (s.toneP lo)) := by
  rw [toneWeight]
  by_cases hdegenerate : feq (s.toneP hi) (s.toneP lo) = true
  · have hpw : (List.range 256).map (s.tonePw lo hi) = (List.range 256).map s.toneP :=
      List.map_congr_left fun i _ => if_pos hdegenerate
    rw [if_pos hdegenerate, if_pos (hflat hdegenerate), hpw, hdegenerate]
  · have hpw (i : Nat) : s.tonePw lo hi i =
        fmul (s.toneP hi) (fsqrt (fdiv (fsub (s.toneP i) (s.toneP lo)) (fsub (s.toneP hi) (s.toneP lo)))) :=
      if_neg hdegenerate
    rw [if_neg hdegenerate, Bool.eq_false_iff.mpr hdegenerate, List.map_congr_left fun i _ => hpw i]
    simp only [map_map_apply]

/-- The steps of TONE have no degenerate case but the sum of step 6. -/
def State.toneResult (s : State) (lo hi : Nat) : ToneResult where
  blend := ⟨s.toneKg, s.toneKprime, s.toneExponent, feq s.toneKg 0⟩
  u := s.toneUAt
  mhist := (List.range 256).map s.toneMh
  pdf := (List.range 256).map s.toneP
  pdfmin := s.toneP lo
  pdfmax := s.toneP hi
  pdfw := (List.range 256).map (s.tonePw lo hi)
  pdfFallback := feq (s.toneP hi) (s.toneP lo)
  cdfsum := s.toneS lo hi
  cdfw := (List.range 256).map (s.toneCdf lo hi)
  lut := toneTable Config.params s.table0Copy ((List.range 256).map (s.toneCdf lo hi))
    ((List.range 256).map (s.tonePw lo hi))

section
variable {s : State} {lo hi : Nat} (hlegal : s.GeometryLegal) (hinf : isinf s.toneKg = false)
  (hzero : feq s.toneKg 0 = true → s.kFallback = true) (h : s.ToneExtremes lo hi)
include hlegal hinf hzero h

/-- Step 5 raises (R121). -/
theorem toneOutcome_flat (hflat : feq (s.toneP hi) (s.toneP lo) = true) (hpolicy : s.pdfFallback = false) :
    s.toneOutcome Config.params = .error ⟨.degenerateStatistics, 0x05, 5⟩ := by
  rw [State.toneOutcome, toneSteps_eq, toneBlend_ok hinf hzero]
  simp only [toneModhist_eq, tonePdf_eq, pdfMin_toneP hlegal h, pdfMax_toneP hlegal h, toneWeight, hflat, hpolicy]
  rfl

/-- Past step 5, TONE raises at step 6 or has the results of every step (R125, R130). -/
theorem toneOutcome_eq (hflat : feq (s.toneP hi) (s.toneP lo) = true → s.pdfFallback = true) :
    s.toneOutcome Config.params =
      if feq (s.toneS lo hi) 0 then .error ⟨.degenerateStatistics, 0x05, 6⟩ else .ok (s.toneResult lo hi) := by
  have hsum : toneSum ((List.range 256).map (runningSum (s.tonePw lo hi))) = s.toneS lo hi :=
    getLastD_map_range _ 255 0
  have hcdf : ((List.range 256).map (runningSum (s.tonePw lo hi))).map (fun c => fdiv c (s.toneS lo hi)) =
      (List.range 256).map (s.toneCdf lo hi) := map_map_apply _ _ _
  rw [State.toneOutcome, toneSteps_eq, toneBlend_ok hinf hzero]
  simp only [toneModhist_eq, tonePdf_eq, pdfMin_toneP hlegal h, pdfMax_toneP hlegal h, toneWeight_ok hflat,
    toneCumulative_map_range, hsum, hcdf]
  rfl

end

/-! ### The errors of TONE -/

theorem exec_tone_error {s : State} {e : StageError} (h : stageTone Config.params s = .error e) :
    exec .tone s = .next (s.raise e) :=
  (exec_eq_runCommand .tone s).trans (congrArg _ (runCommand_cons_error h))

theorem gainOk_iff (s : State) : gainOk s.gainValue = true ↔ isfinite s.gain = true ∧ flt 0 s.gain = true :=
  Bool.and_eq_true_iff

/-- TONE's checks passed: its steps decide (R132). -/
def State.ToneReady (s : State) : Prop :=
  s.GeometryLegal ∧ s.vStats = true ∧ isfinite s.gain = true ∧ flt 0 s.gain = true

theorem stageTone_of_ready {s : State} (h : s.ToneReady) :
    stageTone Config.params s = (s.toneOutcome Config.params).map fun r => commitTone r s := by
  obtain ⟨hlegal, hvalid, hgain⟩ := h
  rw [stageTone_eq, if_pos ((dimsOk_iff s).mpr hlegal), if_pos hvalid, if_pos ((gainOk_iff s).mpr hgain)]
  cases s.toneOutcome Config.params <;> rfl

theorem exec_tone_step_error {s : State} (h : s.ToneReady) {e : StageError}
    (houtcome : s.toneOutcome Config.params = .error e) : exec .tone s = .next (s.raise e) :=
  exec_tone_error (by rw [stageTone_of_ready h, houtcome]; rfl)

/-- A degenerate step as the host sees it: ERRCODE 3, and in ERRINFO the step and the opcode (R28, R158). -/
theorem raise_degenerate (s : State) (step : Byte) :
    s.raise ⟨.degenerateStatistics, 0x05, step⟩ = s.failed 3 ((0 : BitVec 16) ++ step ++ (0x05 : Byte)) := rfl

/-- Settles O19: the checks in their order, then the steps in theirs, each on what the steps before it have computed. -/
theorem toneRaisesItsErrorsInOrder : Obligations.ToneRaisesItsErrorsInOrder := by
  refine fun s => ⟨fun hillegal => ?_, fun hlegal hinvalid => ?_, fun hlegal hvalid hgain => ?_,
    fun hlegal hvalid hfin hpos => ⟨fun hstep => ?_, fun lo hi hinf hzero h =>
      ⟨fun hflat hpolicy => ?_, fun hflat hsum => ?_⟩⟩⟩
  · refine (exec_tone_error (e := ⟨.invalidDimensions, 0x05, 0⟩) ?_).trans (congrArg _ (raise_eq_failed s _ _))
    rw [stageTone_eq, if_neg (mt (dimsOk_iff s).mp hillegal)]
  · refine (exec_tone_error (e := ⟨.sequence, 0x05, 0⟩) ?_).trans (congrArg _ (raise_eq_failed s _ _))
    rw [stageTone_eq, if_pos ((dimsOk_iff s).mpr hlegal), if_neg (Bool.eq_false_iff.mp hinvalid)]
  · refine (exec_tone_error (e := ⟨.config, 0x05, 0⟩) ?_).trans (congrArg _ (raise_eq_failed s _ _))
    rw [stageTone_eq, if_pos ((dimsOk_iff s).mpr hlegal), if_pos hvalid, if_neg (mt (gainOk_iff s).mp hgain)]
  · refine (exec_tone_step_error ⟨hlegal, hvalid, hfin, hpos⟩ ?_).trans (congrArg _ (raise_degenerate s 2))
    rw [State.toneOutcome, toneSteps_eq, toneBlend_error hstep]
  · refine (exec_tone_step_error ⟨hlegal, hvalid, hfin, hpos⟩ ?_).trans (congrArg _ (raise_degenerate s 5))
    exact toneOutcome_flat hlegal hinf hzero h hflat hpolicy
  · refine (exec_tone_step_error ⟨hlegal, hvalid, hfin, hpos⟩ ?_).trans (congrArg _ (raise_degenerate s 6))
    rw [toneOutcome_eq hlegal hinf hzero h hflat, if_pos hsum]

end Sys2Proof.Machine

/-! ### What TONE commits -/

namespace Sys2Proof.Machine

/-- The buffers of TONE's commit list (R131). -/
def toneBuffers : List Buffer := [.mhist, .pdf, .pdfw, .cdfw, .lut]

/-- The bytes that TONE stores in each of its buffers. -/
def ToneResult.bytes (r : ToneResult) : Buffer → List Byte
  | .mhist => r.mhist.flatMap fun n => wordElemBytes (BitVec.ofNat 32 n)
  | .pdf => r.pdf.flatMap dwordBytes
  | .pdfw => r.pdfw.flatMap dwordBytes
  | .cdfw => r.cdfw.flatMap dwordBytes
  | .lut => r.lut
  | _ => []

theorem toneStore_eq (r : ToneResult) (m : Memory) :
    toneStore r m = toneBuffers.foldl (fun m b => m.store b (r.bytes b)) m := rfl

theorem mem_toneBuffers {b : Buffer} :
    b ∈ toneBuffers ↔ b = .mhist ∨ b = .pdf ∨ b = .pdfw ∨ b = .cdfw ∨ b = .lut := by
  simp only [toneBuffers, List.mem_cons, List.not_mem_nil, or_false]

/-- The five buffers have 256 elements each, and TONE stores all of them (R131). -/
theorem length_toneBytes {r : ToneResult} (hr : r.Sized) {b : Buffer} (hb : b ∈ toneBuffers) :
    (r.bytes b).length = b.elemBytes * 256 ∧ b.bytes Config.params = b.elemBytes * 256 := by
  obtain ⟨hmhist, hpdf, hpdfw, hcdfw, hlut⟩ := hr
  rcases Iff.mp mem_toneBuffers hb with rfl | rfl | rfl | rfl | rfl
  · exact ⟨(flatMap_length_const _ 4 (fun n => wordElemBytes_length (BitVec.ofNat 32 n)) _).trans
      (by rw [hmhist]; rfl), rfl⟩
  · exact ⟨(flatMap_length_const _ 8 dwordBytes_length _).trans (by rw [hpdf]; rfl), rfl⟩
  · exact ⟨(flatMap_length_const _ 8 dwordBytes_length _).trans (by rw [hpdfw]; rfl), rfl⟩
  · exact ⟨(flatMap_length_const _ 8 dwordBytes_length _).trans (by rw [hcdfw]; rfl), rfl⟩
  · exact ⟨hlut, rfl⟩

section
variable {bytes : Buffer → List Byte} {bs : List Buffer}
  (hfull : ∀ b ∈ bs, (bytes b).length = b.bytes Config.params)
include hfull

/-- Stores that fill their buffers leave every offset outside these buffers alone. -/
theorem written_foldl_store_outside (m : Memory) {a : Nat} (ha : ∀ b ∈ bs, bufferAt Config.params a ≠ some b) :
    (bs.foldl (fun m b => m.store b (bytes b)) m).written a = m.written a := by
  induction bs generalizing m with
  | nil => rfl
  | cons b bs ih =>
    rw [List.foldl_cons, ih (fun c hc => hfull c (List.mem_cons_of_mem _ hc)) _
      fun c hc => ha c (List.mem_cons_of_mem _ hc)]
    refine written_write_outside m b.base a (bytes b) ?_
    have hout := mt (bufferAt_iff a b).mpr (ha b List.mem_cons_self)
    rw [hfull b List.mem_cons_self]
    omega

/-- In a buffer that is among them, an offset holds the byte that is stored there, whatever the storage was. -/
theorem written_foldl_store_inside (m : Memory) {a : Nat} {b : Buffer} (hb : b ∈ bs)
    (ha : bufferAt Config.params a = some b) :
    (bs.foldl (fun m b => m.store b (bytes b)) m).written a = (bytes b)[a - b.base]? := by
  induction bs generalizing m with
  | nil => exact absurd hb List.not_mem_nil
  | cons c cs ih =>
    have hcs : ∀ d ∈ cs, (bytes d).length = d.bytes Config.params := fun d hd => hfull d (List.mem_cons_of_mem _ hd)
    rw [List.foldl_cons]
    by_cases hin : b ∈ cs
    · exact ih hcs _ hin
    · obtain rfl | hin' := List.mem_cons.mp hb
      · rw [written_foldl_store_outside hcs _ fun d hd heq => hin (Option.some.inj (ha.symm.trans heq) ▸ hd)]
        have hplace := (bufferAt_iff a b).mp ha
        rw [Memory.store, written_write, if_pos (by rw [hfull b List.mem_cons_self]; omega)]
      · exact absurd hin' hin

end

section
variable {r : ToneResult} (hr : r.Sized)
include hr

theorem written_toneStore_outside (m : Memory) {a : Nat} (ha : ∀ b ∈ toneBuffers, bufferAt Config.params a ≠ some b) :
    (toneStore r m).written a = m.written a := by
  rw [toneStore_eq]
  exact written_foldl_store_outside (fun _ hb => (length_toneBytes hr hb).1.trans (length_toneBytes hr hb).2.symm) m ha

theorem written_toneStore_inside (m : Memory) {a : Nat} {b : Buffer} (hb : b ∈ toneBuffers)
    (ha : bufferAt Config.params a = some b) : (toneStore r m).written a = (r.bytes b)[a - b.base]? := by
  rw [toneStore_eq]
  exact written_foldl_store_inside (fun _ hb => (length_toneBytes hr hb).1.trans (length_toneBytes hr hb).2.symm) m hb ha

/-- TONE's buffers lie side by side from 0x1400 to 0x30FF (R56). -/
theorem byteAt_commitTone_outside (s : State) {a : Nat} (ha : a < 0x00001400 ∨ 0x00003100 ≤ a) :
    (commitTone r s).byteAt a = s.byteAt a := by
  have hwritten : (toneStore r s.mem).written a = s.mem.written a := by
    refine written_toneStore_outside hr s.mem fun b hb hplace => ?_
    have hin := bufferAt_some hplace
    rcases Iff.mp mem_toneBuffers hb with rfl | rfl | rfl | rfl | rfl <;>
      simp only [Buffer.bytes, Buffer.base, Buffer.elemBytes, Buffer.capacity] at hin <;> omega
  rw [State.byteAt, State.byteAt, commitTone_mem, commitTone_epoch, Memory.byteAt, Memory.byteAt, hwritten]

/-- Byte j of element i of a buffer of TONE. -/
theorem byteAt_commitTone_element (s : State) {b : Buffer} (hb : b ∈ toneBuffers) {i j : Nat} (hi : i < 256)
    (hj : j < b.elemBytes) :
    (r.bytes b)[b.elemBytes * i + j]? = some ((commitTone r s).byteAt (b.base + (b.elemBytes * i + j))) := by
  obtain ⟨hlen, hbytes⟩ := length_toneBytes hr hb
  have hin : b.elemBytes * i + j < b.elemBytes * 256 := by
    have := Nat.mul_le_mul_left b.elemBytes (Nat.succ_le_of_lt hi)
    rw [Nat.mul_succ] at this
    omega
  have hwritten := written_toneStore_inside hr s.mem hb
    ((bufferAt_iff (b.base + (b.elemBytes * i + j)) b).mpr (by omega))
  rw [State.byteAt, commitTone_mem, Memory.byteAt, hwritten, Nat.add_sub_cancel_left,
    List.getElem?_eq_getElem (by omega)]
  rfl

end

theorem wordAt_eq_of_bytes {t : State} {a : Nat} {w : Word}
    (h : ∀ j < 4, (wordElemBytes w)[j]? = some (t.byteAt (a + j))) : t.wordAt a = w := by
  have h0 : w.extractLsb' 0 8 = t.byteAt a := Option.some.inj (h 0 (by decide))
  have h1 : w.extractLsb' 8 8 = t.byteAt (a + 1) := Option.some.inj (h 1 (by decide))
  have h2 : w.extractLsb' 16 8 = t.byteAt (a + 2) := Option.some.inj (h 2 (by decide))
  have h3 : w.extractLsb' 24 8 = t.byteAt (a + 3) := Option.some.inj (h 3 (by decide))
  rw [State.wordAt, ← h0, ← h1, ← h2, ← h3, word_of_bytes]

theorem dwordAt_eq_of_bytes {t : State} {a : Nat} {d : DWord}
    (h : ∀ j < 8, (dwordBytes d)[j]? = some (t.byteAt (a + j))) : t.dwordAt a = d := by
  have hlo : t.wordAt a = d.extractLsb' 0 32 := wordAt_eq_of_bytes fun j hj => by
    rw [← h j (by omega), dwordBytes, List.getElem?_append_left hj]
  have hhi : t.wordAt (a + 4) = d.extractLsb' 32 32 := wordAt_eq_of_bytes fun j hj => by
    rw [Nat.add_assoc, ← h (4 + j) (by omega), dwordBytes, List.getElem?_append_right (Nat.le_add_right 4 j),
      wordElemBytes_length, Nat.add_sub_cancel_left]
  rw [State.dwordAt, hlo, hhi, dword_of_halves]

section
variable {r : ToneResult} (hr : r.Sized) (s : State) {i : Nat} (hi : i < 256)
include hr hi

theorem mhistAt_commitTone {n : Nat} (h : r.mhist[i]? = some n) : (commitTone r s).mhistAt i = n % 4294967296 := by
  have hword : (commitTone r s).wordAt (0x00001400 + 4 * i) = BitVec.ofNat 32 n := by
    refine wordAt_eq_of_bytes fun j hj => ?_
    rw [Nat.add_assoc]
    refine Eq.trans ?_ (byteAt_commitTone_element hr s (b := .mhist) (by decide) hi hj)
    refine Eq.trans ?_ (flatMap_getElem _ 4 (fun n => wordElemBytes_length (BitVec.ofNat 32 n)) r.mhist i j hj).symm
    rw [h]
    rfl
  rw [State.mhistAt, hword, BitVec.toNat_ofNat]

/-- A buffer of 64-bit elements. -/
theorem dwordAt_commitTone {b : Buffer} (hb : b ∈ toneBuffers) (hsize : b.elemBytes = 8) {xs : List F64}
    (hbytes : r.bytes b = xs.flatMap dwordBytes) {x : F64} (h : xs[i]? = some x) :
    (commitTone r s).dwordAt (b.base + 8 * i) = x := by
  refine dwordAt_eq_of_bytes fun j hj => ?_
  have hbyte := byteAt_commitTone_element hr s hb hi (j := j) (by omega)
  rw [hsize, hbytes, flatMap_getElem _ 8 dwordBytes_length _ _ _ hj, h] at hbyte
  rw [Nat.add_assoc]
  exact hbyte

theorem pdfAt_commitTone {x : F64} (h : r.pdf[i]? = some x) : (commitTone r s).pdfAt i = x :=
  dwordAt_commitTone hr s hi (b := .pdf) (by decide) rfl rfl h

theorem pdfwAt_commitTone {x : F64} (h : r.pdfw[i]? = some x) : (commitTone r s).pdfwAt i = x :=
  dwordAt_commitTone hr s hi (b := .pdfw) (by decide) rfl rfl h

theorem cdfwAt_commitTone {x : F64} (h : r.cdfw[i]? = some x) : (commitTone r s).cdfwAt i = x :=
  dwordAt_commitTone hr s hi (b := .cdfw) (by decide) rfl rfl h

theorem lutAt_commitTone {x : Byte} (h : r.lut[i]? = some x) : (commitTone r s).lutAt i = x.toNat := by
  have hbyte := byteAt_commitTone_element hr s (b := .lut) (by decide) hi (j := 0) (by decide)
  have hindex : Buffer.lut.elemBytes * i + 0 = i := Nat.one_mul i
  rw [hindex] at hbyte
  exact congrArg BitVec.toNat (Option.some.inj (hbyte.symm.trans h))

end

/-! ### The table -/

theorem halfEvenMag_mul_f64One (n : Nat) : halfEvenMag (n * f64One) = n := by
  have hone := f64One_pos
  rw [halfEvenMag, Nat.mul_div_cancel _ hone, Nat.mul_mod_left, tiesToEven, if_pos (by omega)]

theorem roundHalfEven_of_units {x : F64} {n : Nat} (hunits : f64Units x = n * f64One) (hsign : f64Sign x = false) :
    roundHalfEven x = n := by
  rw [roundHalfEven, hunits, halfEvenMag_mul_f64One, hsign]
  rfl

theorem roundHalfEven_zero : roundHalfEven 0 = 0 := roundHalfEven_of_units (Nat.zero_mul _).symm rfl

theorem roundHalfEven_toneScale : roundHalfEven toneScale = 255 := roundHalfEven_of_units f64Units_255 (by decide)

theorem toNat_ofInt_byte (z : Int) : ((BitVec.ofInt 8 z).toNat : Int) = z % 256 := by
  rw [BitVec.toNat_ofInt]
  exact Int.toNat_of_nonneg (Int.emod_nonneg _ (by decide))

/-- Step 7's entry: the bounds of the clamp are integers, so that it may come before or after the conversion (R127). -/
theorem tableEntry_eq (s : State) (lo hi i : Nat) :
    tableEntry Config.params (s.toneCdf lo hi i) (s.tonePw lo hi i) = BitVec.ofInt 8 (s.toneEntry lo hi i) := by
  have hcvt (x : F64) : tableCvt Config.params x = roundHalfEven x := rfl
  have hx : fmul toneScale (fsub (s.toneCdf lo hi i) (fmul f64_half (s.tonePw lo hi i))) = s.toneX lo hi i := rfl
  have hscale : flt 0x406FE00000000000 (s.toneX lo hi i) = flt toneScale (s.toneX lo hi i) := rfl
  rw [tableEntry, hcvt, tableReal, State.toneEntry, hx, hscale]
  by_cases hlow : flt (s.toneX lo hi i) 0 = true
  · rw [if_pos hlow, if_pos hlow, roundHalfEven_zero]
  · rw [if_neg hlow, if_neg hlow]
    by_cases hhigh : flt toneScale (s.toneX lo hi i) = true
    · rw [if_pos hhigh, if_pos hhigh, roundHalfEven_toneScale]
    · rw [if_neg hhigh, if_neg hhigh]

/-- The table from entry 1 on, and entry 0 after it (R127, R128). -/
theorem toneTable_getElem {p : Params} {copy0 : Bool} {cdfw pdfw : Nat → F64} :
    (∀ i, 1 ≤ i → i < 256 → (toneTable p copy0 ((List.range 256).map cdfw) ((List.range 256).map pdfw))[i]? =
        some (tableEntry p (cdfw i) (pdfw i))) ∧
      (toneTable p copy0 ((List.range 256).map cdfw) ((List.range 256).map pdfw))[0]? =
        some (if copy0 then tableEntry p (cdfw 1) (pdfw 1) else 0) := by
  have hentries : List.zipWith (tableEntry p) ((List.range 256).map cdfw) ((List.range 256).map pdfw) =
      (List.range 256).map fun i => tableEntry p (cdfw i) (pdfw i) := by
    rw [List.zipWith_map, List.zipWith_self]
  have htail (i : Nat) (hi : i + 1 < 256) :
      (((List.range 256).map fun i => tableEntry p (cdfw i) (pdfw i)).drop 1)[i]? =
        some (tableEntry p (cdfw (i + 1)) (pdfw (i + 1))) := by
    rw [List.getElem?_drop, Nat.add_comm, List.getElem?_map, List.getElem?_range hi]
    rfl
  rw [toneTable, hentries]
  refine ⟨fun i hlow hhigh => ?_, ?_⟩
  · obtain ⟨i, rfl⟩ : ∃ j, i = j + 1 := ⟨i - 1, by omega⟩
    rw [List.getElem?_cons_succ, htail i hhigh]
  · rw [List.getElem?_cons_zero, List.headD_eq_head?_getD, List.head?_eq_getElem?, htail 0 (by decide)]
    rfl

/-! ### TONE that commits -/

theorem getLsbD_setBit (w : Word) (i : Nat) (b : Bool) (j : Nat) (hj : j < 32) :
    (setBit w i b).getLsbD j = if j = i then b else w.getLsbD j := by
  split
  · rename_i h
    subst h
    cases b <;> simp [setBit, hj]
  · rename_i h
    exact getLsbD_setBit_ne w b (Ne.symm h)

/-- FALLBACK takes K_USED and PDF_USED in bits 1 and 2, and keeps the others (R35). -/
theorem fallbackTone_eq (fb : Word) (kUsed pdfUsed : Bool) :
    fallbackTone fb kUsed pdfUsed =
      (fb &&& 0xFFFFFFF9) ||| (if kUsed = true then 2 else 0) ||| (if pdfUsed = true then 4 else 0) := by
  have hbits : ∀ i < 32, (0xFFFFFFF9 : Word).getLsbD i = (!decide (i = 1) && !decide (i = 2)) ∧
      (2 : Word).getLsbD i = decide (i = 1) ∧ (4 : Word).getLsbD i = decide (i = 2) := by decide
  have hif (c : Bool) (w : Word) (i : Nat) : (if c = true then w else 0).getLsbD i = (c && w.getLsbD i) := by
    cases c <;> simp
  refine BitVec.eq_of_getLsbD_eq fun i hi => ?_
  obtain ⟨hmask, htwo, hfour⟩ := hbits i hi
  rw [fallbackTone, getLsbD_setBit _ _ _ _ hi, getLsbD_setBit _ _ _ _ hi, BitVec.getLsbD_or, BitVec.getLsbD_or,
    BitVec.getLsbD_and, hif, hif, hmask, htwo, hfour]
  by_cases h1 : i = 1
  · simp [h1]
  · by_cases h2 : i = 2 <;> simp [h1, h2]

section
variable (s : State) (i : Nat)

/-- Completion changes STATUS only (R142). -/
theorem byteAt_complete : s.complete.byteAt i = s.byteAt i := rfl
theorem mhistAt_complete : s.complete.mhistAt i = s.mhistAt i := rfl
theorem pdfAt_complete : s.complete.pdfAt i = s.pdfAt i := rfl
theorem pdfwAt_complete : s.complete.pdfwAt i = s.pdfwAt i := rfl
theorem cdfwAt_complete : s.complete.cdfwAt i = s.cdfwAt i := rfl
theorem lutAt_complete : s.complete.lutAt i = s.lutAt i := rfl

end

theorem exec_tone_commit {s : State} (h : s.ToneReady) {r : ToneResult}
    (houtcome : s.toneOutcome Config.params = .ok r) : exec .tone s = .next (commitTone r s).complete :=
  (exec_eq_runCommand .tone s).trans
    (congrArg _ (runCommand_single_ok (by rw [stageTone_of_ready h, houtcome]; rfl)))

theorem getElem_of_eq_map_range {α : Type} {xs : List α} {f : Nat → α} {i n : Nat} (h : xs = (List.range n).map f)
    (hi : i < n) : xs[i]? = some (f i) := by
  rw [h, List.getElem?_map, List.getElem?_range hi]
  rfl

/-- The record of the formulas, field by field. -/
theorem toneResult_fields (s : State) (lo hi : Nat) :
    (s.toneResult lo hi).blend = ⟨s.toneKg, s.toneKprime, s.toneExponent, feq s.toneKg 0⟩ ∧
      (s.toneResult lo hi).u = s.toneUAt ∧
      (s.toneResult lo hi).mhist = (List.range 256).map s.toneMh ∧
      (s.toneResult lo hi).pdf = (List.range 256).map s.toneP ∧
      (s.toneResult lo hi).pdfmin = s.toneP lo ∧
      (s.toneResult lo hi).pdfmax = s.toneP hi ∧
      (s.toneResult lo hi).pdfw = (List.range 256).map (s.tonePw lo hi) ∧
      (s.toneResult lo hi).pdfFallback = feq (s.toneP hi) (s.toneP lo) ∧
      (s.toneResult lo hi).cdfsum = s.toneS lo hi ∧
      (s.toneResult lo hi).cdfw = (List.range 256).map (s.toneCdf lo hi) ∧
      (s.toneResult lo hi).lut = toneTable Config.params s.table0Copy ((List.range 256).map (s.toneCdf lo hi))
        ((List.range 256).map (s.tonePw lo hi)) := by
  refine ⟨?_, ?_, ?_, ?_, ?_, ?_, ?_, ?_, ?_, ?_, ?_⟩ <;> rw [State.toneResult]

theorem toneResult_cdfw (s : State) (lo hi : Nat) {i : Nat} (h : i < 256) :
    (s.toneResult lo hi).cdfw[i]? = some (s.toneCdf lo hi i) := by
  obtain ⟨-, -, -, -, -, -, -, -, -, hcdfw, -⟩ := toneResult_fields s lo hi
  exact getElem_of_eq_map_range hcdfw h

theorem toneResult_lut (s : State) (lo hi : Nat) : (∀ i, 1 ≤ i → i < 256 →
      (s.toneResult lo hi).lut[i]? = some (BitVec.ofInt 8 (s.toneEntry lo hi i))) ∧
    (s.toneResult lo hi).lut[0]? = some (if s.table0Copy then BitVec.ofInt 8 (s.toneEntry lo hi 1) else 0) := by
  obtain ⟨hentry, hzeroth⟩ := toneTable_getElem (p := Config.params) (copy0 := s.table0Copy) (cdfw := s.toneCdf lo hi)
    (pdfw := s.tonePw lo hi)
  obtain ⟨-, -, -, -, -, -, -, -, -, -, hlut⟩ := toneResult_fields s lo hi
  rw [hlut]
  refine ⟨fun i hlow hhigh => ?_, ?_⟩
  · rw [← tableEntry_eq]
    exact hentry i hlow hhigh
  · rw [← tableEntry_eq]
    exact hzeroth

theorem toneResult_sized (s : State) (lo hi : Nat) : (s.toneResult lo hi).Sized := by
  have hlen {α : Type} (f : Nat → α) : ((List.range 256).map f).length = 256 := by
    rw [List.length_map, List.length_range]
  exact ⟨hlen _, hlen _, hlen _, hlen _, toneTable_length _ _ _ _ 255 (hlen _) (hlen _)⟩

/-- The state after a TONE that commits, register by register (R130, R131). -/
theorem commitTone_complete_eq (s : State) (r : ToneResult) :
    (commitTone r s).complete =
      { s with mem := (commitTone r s).complete.mem, kg := r.blend.kg, kprime := r.blend.kprime,
               kexp := BitVec.ofInt 32 r.blend.e, u := r.u, pdfmin := r.pdfmin, pdfmax := r.pdfmax,
               cdfsum := r.cdfsum, fallback := fallbackTone s.fallback r.blend.fallback r.pdfFallback,
               valid := s.valid ||| 0x00000008, status := completedStatus s.status } := rfl

/-- Settles O18: the outcome of the steps is the record of their formulas, and each element of a buffer reads as the
element of the record. -/
theorem toneCompletesWithTheStepFormulas : Obligations.ToneCompletesWithTheStepFormulas := by
  intro s lo hi hlegal hvalid hfin hpos hinf hzero h hflat hsum
  have hr := toneResult_sized s lo hi
  have houtcome : s.toneOutcome Config.params = .ok (s.toneResult lo hi) := by
    rw [toneOutcome_eq hlegal hinf hzero h hflat, if_neg (Bool.eq_false_iff.mp hsum)]
  obtain ⟨hblend, hu, hmhist, hpdf, hpdfmin, hpdfmax, hpdfw, hfallback, hcdfsum, hcdfw, -⟩ := toneResult_fields s lo hi
  obtain ⟨hentry, hzeroth⟩ := toneResult_lut s lo hi
  have hlut (i : Nat) (hlow : 1 ≤ i) (hhigh : i < 256) : (commitTone (s.toneResult lo hi) s).lutAt i =
      (BitVec.ofInt 8 (s.toneEntry lo hi i)).toNat := lutAt_commitTone hr s hhigh (hentry i hlow hhigh)
  refine ⟨_, exec_tone_commit ⟨hlegal, hvalid, hfin, hpos⟩ houtcome, fun i hi => ⟨?_, ?_, ?_, ?_⟩,
    fun i hlow hhigh => ?_, ?_, fun a ha => ?_, ?_⟩
  · rw [mhistAt_complete, mhistAt_commitTone hr s hi (getElem_of_eq_map_range hmhist hi)]
  · rw [pdfAt_complete, pdfAt_commitTone hr s hi (getElem_of_eq_map_range hpdf hi)]
  · rw [pdfwAt_complete, pdfwAt_commitTone hr s hi (getElem_of_eq_map_range hpdfw hi)]
  · rw [cdfwAt_complete, cdfwAt_commitTone hr s hi (getElem_of_eq_map_range hcdfw hi)]
  · rw [lutAt_complete, hlut i hlow hhigh, toNat_ofInt_byte]
  · rw [lutAt_complete, lutAt_complete, lutAt_commitTone hr s (by decide) hzeroth, hlut 1 le_rfl (by decide)]
    exact apply_ite BitVec.toNat _ _ _
  · rw [byteAt_complete, byteAt_commitTone_outside hr s ha]
  · rw [← fallbackTone_eq]
    refine (commitTone_complete_eq s (s.toneResult lo hi)).trans ?_
    rw [hblend, hu, hpdfmin, hpdfmax, hcdfsum, hfallback]

end Sys2Proof.Machine

/-! ## Settling O20, O21 and O22: bounds that every step of TONE keeps, so that nothing overflows or is a NaN -/

namespace Sys2Proof.Machine

/-! ### Values of at most b -/

/-- x is not negative and at most b; below 2^53 that is a bound that rounding keeps. -/
def Within (x : F64) (b : Nat) : Prop := f64Sign x = false ∧ f64Units x ≤ b * f64One

section
variable {x y : F64} {b c : Nat}

theorem Within.isfinite (h : Within x b) (hb : b < 2 ^ 53) : isfinite x = true := by
  obtain ⟨m, hfin, hm⟩ := exists_magUnits_eq_mul_f64One hb
  refine (isfinite_iff x).mpr (lt_of_le_of_lt ?_ hfin)
  exact magUnits_strictMono.le_iff_le.mp (hm ▸ h.2)

theorem Within.nonNeg (h : Within x b) (hb : b < 2 ^ 53) : NonNeg x :=
  ⟨h.1, ((isfinite_iff x).mp (h.isfinite hb)).le⟩

theorem Within.mono (h : Within x b) (hbc : b ≤ c) : Within x c :=
  ⟨h.1, h.2.trans (Nat.mul_le_mul_right _ hbc)⟩

theorem Within.eq_zero (h : Within x 0) : x = 0 := by
  have hunits : f64Units x = 0 := Nat.le_zero.mp (h.2.trans_eq (Nat.zero_mul _))
  exact eq_of_units_eq (h.nonNeg (by decide)) nonNeg_zero hunits

theorem within_zero : Within 0 0 := ⟨rfl, Nat.zero_le _⟩

theorem within_1 : Within f64_1 1 := ⟨rfl, (Eq.trans f64Units_1 (Nat.one_mul _).symm).le⟩

theorem within_round {num den : Nat} (hden : 0 < den) (hb : b < 2 ^ 53) (h : num ≤ b * f64One * den) :
    Within (f64Round false num den) b := by
  obtain ⟨m, hfin, hm⟩ := exists_magUnits_eq_mul_f64One hb
  obtain ⟨hmag, hsign⟩ := f64Round_spec false num den
  refine ⟨hsign, ?_⟩
  rw [f64Units_eq_magUnits, hmag, ← hm]
  refine magUnits_strictMono.monotone ((roundMag_mono hden one_pos ?_).trans_eq (roundMag_magUnits hfin.le))
  rwa [Nat.mul_one, hm]

theorem within_ofNat (hb : b < 2 ^ 53) : Within (f64OfNat b) b :=
  ⟨f64Sign_ofNat b, (f64OfNat_exact hb).2.le⟩

theorem within_fmul (hx : Within x b) (hy : Within y c) (hb : b < 2 ^ 53) (hc : c < 2 ^ 53) (hbc : b * c < 2 ^ 53) :
    Within (fmul x y) (b * c) := by
  rw [fmul_nonNeg_of_finite (hx.isfinite hb) (hy.isfinite hc) hx.1 hy.1]
  refine within_round f64One_pos hbc ?_
  calc f64Units x * f64Units y ≤ b * f64One * (c * f64One) := Nat.mul_le_mul hx.2 hy.2
    _ = b * c * f64One * f64One := by ring

theorem f64Int_of_sign (h : f64Sign x = false) : f64Int x = (f64Units x : Int) := by
  rw [f64Int, h]
  rfl

/-- The sum of values that are not negative is a rounding with sign 0. -/
theorem fadd_nonNeg (hx : Within x b) (hy : Within y c) (hb : b < 2 ^ 53) (hc : c < 2 ^ 53) :
    fadd x y = f64Round false (f64Units x + f64Units y) 1 := by
  obtain ⟨hmag, hsign⟩ := fadd_rounds (hx.isfinite hb) (hy.isfinite hc)
  obtain ⟨hrmag, hrsign⟩ := f64Round_spec false (f64Units x + f64Units y) 1
  rw [f64Int_of_sign hx.1, f64Int_of_sign hy.1, hx.1, hy.1] at hsign
  rw [f64Int_of_sign hx.1, f64Int_of_sign hy.1] at hmag
  refine eq_of_sign_mag (hsign.trans (Eq.trans ?_ hrsign.symm)) (hmag.trans hrmag.symm)
  split
  · rfl
  · exact decide_eq_false (by omega)

theorem within_fadd (hx : Within x b) (hy : Within y c) (hbc : b + c < 2 ^ 53) : Within (fadd x y) (b + c) := by
  rw [fadd_nonNeg hx hy (by omega) (by omega)]
  refine within_round one_pos hbc ?_
  rw [Nat.mul_one, Nat.add_mul]
  exact Nat.add_le_add hx.2 hy.2

/-- Rounding does not take a sum below a term. -/
theorem le_fadd (hx : Within x b) (hy : Within y c) (hb : b < 2 ^ 53) (hc : c < 2 ^ 53) :
    f64Units x ≤ f64Units (fadd x y) ∧ f64Units y ≤ f64Units (fadd x y) := by
  have hle {z : F64} (hz : NonNeg z) (hle : f64Units z ≤ f64Units x + f64Units y) :
      f64Units z ≤ f64Units (fadd x y) := by
    rw [fadd_nonNeg hx hy hb hc, f64Units_eq_magUnits (f64Round _ _ _), (f64Round_spec _ _ _).1, f64Units_eq_magUnits z]
    refine magUnits_strictMono.monotone ((roundMag_magUnits hz.2).symm.trans_le (roundMag_mono one_pos one_pos ?_))
    rwa [Nat.mul_one, Nat.mul_one]
  exact ⟨hle (hx.nonNeg hb) (Nat.le_add_right _ _), hle (hy.nonNeg hc) (Nat.le_add_left _ _)⟩

/-- The difference from a value that is not greater is a rounding with sign 0. -/
theorem fsub_nonNeg (hx : Within x b) (hy : Within y c) (hb : b < 2 ^ 53) (hc : c < 2 ^ 53)
    (hle : f64Units y ≤ f64Units x) : fsub x y = f64Round false (f64Units x - f64Units y) 1 := by
  obtain ⟨hmag, hsign⟩ := fsub_rounds (hx.isfinite hb) (hy.isfinite hc)
  obtain ⟨hrmag, hrsign⟩ := f64Round_spec false (f64Units x - f64Units y) 1
  rw [f64Int_of_sign hx.1, f64Int_of_sign hy.1, hx.1, hy.1] at hsign
  rw [f64Int_of_sign hx.1, f64Int_of_sign hy.1, show ((f64Units x : Int) - f64Units y).natAbs =
    f64Units x - f64Units y by omega] at hmag
  refine eq_of_sign_mag (hsign.trans (Eq.trans ?_ hrsign.symm)) (hmag.trans hrmag.symm)
  split
  · rfl
  · exact decide_eq_false (by omega)

theorem within_fsub (hx : Within x b) (hy : Within y c) (hb : b < 2 ^ 53) (hc : c < 2 ^ 53)
    (hle : f64Units y ≤ f64Units x) : Within (fsub x y) b := by
  rw [fsub_nonNeg hx hy hb hc hle]
  refine within_round one_pos hb ?_
  rw [Nat.mul_one]
  exact (Nat.sub_le _ _).trans hx.2

/-- Values that differ have a difference above 0: subnormals are kept (R10). -/
theorem fsub_pos (hx : Within x b) (hy : Within y c) (hb : b < 2 ^ 53) (hc : c < 2 ^ 53)
    (hlt : f64Units y < f64Units x) : 0 < f64Units (fsub x y) := by
  rw [fsub_nonNeg hx hy hb hc hlt.le, f64Units_eq_magUnits (f64Round _ _ _), (f64Round_spec _ _ _).1]
  have hone : magUnits 1 = 1 := by decide
  calc 0 < magUnits (roundMag (magUnits 1) 1) := by rw [roundMag_magUnits (by decide), hone]; exact one_pos
    _ ≤ _ := magUnits_strictMono.monotone (roundMag_mono one_pos one_pos (by omega))

theorem f64Mag_ne_zero_of_pos (h : 0 < f64Units x) : f64Mag x ≠ 0 := by
  intro hzero
  rw [f64Units_eq_magUnits, hzero] at h
  exact lt_irrefl _ h

theorem fdiv_nonNeg (hx : Within x b) (hy : Within y c) (hb : b < 2 ^ 53) (hc : c < 2 ^ 53) (hpos : 0 < f64Units y) :
    fdiv x y = f64Round false (f64Units x * f64One) (f64Units y) := by
  rw [fdiv_of_finite (hx.isfinite hb) (hy.isfinite hc) (f64Mag_ne_zero_of_pos hpos), hx.1, hy.1, bne_self_eq_false]

theorem within_fdiv {q : Nat} (hx : Within x b) (hy : Within y c) (hb : b < 2 ^ 53) (hc : c < 2 ^ 53)
    (hpos : 0 < f64Units y) (hq : q < 2 ^ 53) (hle : f64Units x ≤ q * f64Units y) : Within (fdiv x y) q := by
  rw [fdiv_nonNeg hx hy hb hc hpos]
  refine within_round hpos hq ?_
  rw [Nat.mul_right_comm]
  exact Nat.mul_le_mul_right _ hle

/-- The quotient of a value by itself is exactly 1. -/
theorem fdiv_self (hx : Within x b) (hb : b < 2 ^ 53) (hpos : 0 < f64Units x) : fdiv x x = f64_1 := by
  have hround := fdiv_nonNeg hx hx hb hb hpos
  refine eq_of_units_eq (hround ▸ nonNeg_round _ _) nonNeg_1 ?_
  rw [hround, f64Units_eq_magUnits (f64Round _ _ _), (f64Round_spec _ _ _).1,
    roundMag_congr hpos one_pos (num' := f64Units f64_1) (by rw [f64Units_1]; ring), f64Units_eq_magUnits,
    roundMag_magUnits nonNeg_1.2]

/-- The product by 1 is exact. -/
theorem fmul_1 (hx : Within x b) (hb : b < 2 ^ 53) : fmul x f64_1 = x := by
  have hround := fmul_nonNeg_of_finite (hx.isfinite hb) (by decide) hx.1 nonNeg_1.1
  have hnonneg := hx.nonNeg hb
  refine eq_of_units_eq (hround ▸ nonNeg_round _ _) hnonneg ?_
  rw [hround, f64Units_eq_magUnits (f64Round _ _ _), (f64Round_spec _ _ _).1, f64Units_1,
    roundMag_congr f64One_pos one_pos (num' := f64Units x) (by ring), f64Units_eq_magUnits,
    roundMag_magUnits hnonneg.2]

end

/-! ### The square root of a value up to 1 -/

theorem IsRootRounding.le {r x m : Nat} (h : IsRootRounding r x) (hx : x ≤ magUnits m ^ 2) : r ≤ m := by
  by_contra hlt
  have hlow : magUnits m ≤ magUnits (r - 1) := magUnits_strictMono.monotone (by omega)
  have hhigh : magUnits m < magUnits r := magUnits_strictMono (by omega)
  have := h.1
  nlinarith

theorem IsRootRounding.ge {r x m : Nat} (h : IsRootRounding r x) (hx : magUnits m ^ 2 ≤ x) : m ≤ r := by
  by_contra hlt
  have hlow : magUnits r < magUnits m := magUnits_strictMono (by omega)
  have hhigh : magUnits (r + 1) ≤ magUnits m := magUnits_strictMono.monotone (by omega)
  have := h.2
  nlinarith

theorem fsqrt_within_1 {x : F64} (hx : Within x 1) : Within (fsqrt x) 1 ∧ (x = f64_1 → fsqrt x = f64_1) := by
  obtain hzero | hpos := Nat.eq_zero_or_pos (f64Units x)
  · obtain rfl : x = 0 := eq_of_units_eq (hx.nonNeg (by decide)) nonNeg_zero hzero
    exact ⟨within_zero.mono (by decide), fun h => absurd h (by decide)⟩
  · have hone : magUnits (f64Mag f64_1) = f64One := f64Units_1
    have hle : f64Units x ≤ f64One := hx.2.trans_eq (Nat.one_mul _)
    have hroot := sqrtMag_isRootRounding hpos
    have hmag : sqrtMag (f64Units x) ≤ f64Mag f64_1 :=
      hroot.le (by rw [hone, Nat.pow_two]; exact Nat.mul_le_mul_right _ hle)
    have hsqrt : fsqrt x = f64Make false (sqrtMag (f64Units x)) :=
      fsqrt_of_pos (hx.isfinite (by decide)) ((flt_iff nonNeg_zero (hx.nonNeg (by decide))).mpr hpos)
    have hinf : sqrtMag (f64Units x) ≤ f64Inf := hmag.trans nonNeg_1.2
    rw [hsqrt]
    refine ⟨⟨f64Sign_make _ _ hinf, ?_⟩, fun h => ?_⟩
    · rw [f64Units_make hinf, Nat.one_mul, ← hone]
      exact magUnits_strictMono.monotone hmag
    · refine eq_of_sign_mag (f64Sign_make _ _ hinf) ((f64Mag_make _ _ hinf).trans (le_antisymm hmag (hroot.ge ?_)))
      rw [hone, h, f64Units_1, Nat.pow_two]

end Sys2Proof.Machine

namespace Sys2Proof.Machine

/-! ### The steps of TONE within their bounds -/

theorem f64Units_256 : f64_256 = f64OfNat 256 := by
  have hmag : f64Mag f64_256 = 1030 * 0x10000000000000 + 256 * 2 ^ 44 := by decide
  refine eq_of_units_eq ⟨rfl, by decide⟩ (nonNeg_ofNat 256) ?_
  rw [(f64OfNat_exact (by decide)).2, f64Units_eq_magUnits, hmag, magUnits_encode _ _ (.inr (by decide)) (by decide),
    f64One_eq_mul (a := 44) (b := 1030) rfl, ← Nat.mul_assoc]

/-- Rounding to an integer keeps an integer bound. -/
theorem halfAwayMag_le {units b : Nat} (h : units ≤ b * f64One) : halfAwayMag units ≤ b := by
  have hone := f64One_pos
  rw [halfAwayMag]
  generalize f64One = one at *
  refine Nat.lt_succ_iff.mp ((Nat.div_lt_iff_lt_mul (by omega)).mpr ?_)
  nlinarith

/-- `u` is at most COUNT (R115). -/
theorem within_toneUAt (s : State) : Within s.toneUAt s.count.toNat := by
  have hcount : s.count.toNat < 4294967296 := s.count.isLt
  have hu : s.toneUAt = fdiv (f64OfNat s.count.toNat) (f64OfNat 256) := by
    rw [State.toneUAt, ← f64Units_256, f64_256]
  have hone := f64One_pos
  rw [hu]
  refine within_fdiv (within_ofNat (by omega)) (within_ofNat (by decide : 256 < 2 ^ 53)) (by omega) (by decide) ?_
    (by omega) ?_
  · rw [(f64OfNat_exact (by decide)).2]
    omega
  · rw [(f64OfNat_exact (by omega)).2, (f64OfNat_exact (by decide)).2]
    exact Nat.mul_le_mul_left _ (Nat.le_mul_of_pos_left _ (by decide))

section
variable {s : State} (hfin : isfinite s.gain = true) (hpos : flt 0 s.gain = true)
include hfin hpos

/-- `k'` is at most 1 (R112, R113). -/
theorem within_toneKprime : Within s.toneKprime 1 := by
  have hk : s.k.toNat < 2 ^ 53 := s.k.isLt.trans (by decide)
  obtain ⟨hgain, hunits⟩ := nonNeg_of_pos hfin hpos
  have hround : s.toneKg = _ := fmul_nonNeg_of_finite (f64OfNat_exact hk).1 hfin (f64Sign_ofNat _) hgain.1
  have hkg : NonNeg s.toneKg := hround ▸ nonNeg_round _ _
  rw [State.toneKprime]
  by_cases hzero : feq s.toneKg 0 = true
  · rw [if_pos hzero]
    exact within_zero.mono (by decide)
  · have hkgpos : 0 < f64Units s.toneKg :=
      Nat.pos_of_ne_zero fun h => hzero ((feq_iff hkg nonNeg_zero).mpr (h.trans f64Units_zero.symm))
    obtain ⟨hnonneg, -, hle, -⟩ := ldexp_leastExponent_range hkg hkgpos
    rw [if_neg hzero]
    exact ⟨hnonneg.1, hle.trans_eq (Nat.one_mul _).symm⟩

/-- An element of MHIST is at most COUNT plus the bin: it blends the two (R116, R118). -/
theorem toneMh_le (i : Nat) : s.toneMh i ≤ s.count.toNat + s.histAt i := by
  have hcount : s.count.toNat < 4294967296 := s.count.isLt
  have hbin : s.histAt i < 4294967296 := (s.wordAt (0x00001000 + 4 * i)).isLt
  have hk := within_toneKprime hfin hpos
  have ha : Within (fsub f64_1 s.toneKprime) 1 :=
    within_fsub within_1 hk (by decide) (by decide) (by rw [f64Units_1]; exact hk.2.trans_eq (Nat.one_mul _))
  have hflat := within_fmul ha (within_toneUAt s) (by decide) (by omega) (by omega)
  have hown := within_fmul hk (within_ofNat (b := s.histAt i) (by omega)) (by decide) (by omega) (by omega)
  rw [Nat.one_mul] at hflat hown
  have hblend := within_fadd hflat hown (by omega)
  have hmh : s.toneMh i = (roundHalfAway (fadd (fmul (fsub f64_1 s.toneKprime) s.toneUAt)
      (fmul s.toneKprime (f64OfNat (s.histAt i))))).toNat := by rw [State.toneMh, f64_1]
  rw [hmh, roundHalfAway, hblend.1, if_neg Bool.false_ne_true, Int.toNat_natCast]
  exact halfAwayMag_le hblend.2

/-- An element of the PDF is at most that of MHIST (R119). -/
theorem within_toneP (hlegal : s.GeometryLegal) (i : Nat) : Within (s.toneP i) (s.count.toNat + s.histAt i) := by
  obtain ⟨hw, hh, hle⟩ := hlegal
  have hpixels : 0 < s.width.toNat * s.height.toNat := Nat.mul_pos hw hh
  have hcount : s.count.toNat < 4294967296 := s.count.isLt
  have hbin : s.histAt i < 4294967296 := (s.wordAt (0x00001000 + 4 * i)).isLt
  have hmh := toneMh_le hfin hpos i
  refine Within.mono ?_ hmh
  refine within_fdiv (within_ofNat (by omega)) (within_ofNat (b := s.width.toNat * s.height.toNat) (by omega))
    (by omega) (by omega) ?_ (by omega) ?_
  · rw [(f64OfNat_exact (by omega)).2]
    exact Nat.mul_pos hpixels f64One_pos
  · rw [(f64OfNat_exact (by omega)).2, (f64OfNat_exact (by omega)).2]
    exact Nat.mul_le_mul_left _ (Nat.le_mul_of_pos_left _ hpixels)

theorem within_toneP_max (hlegal : s.GeometryLegal) (i : Nat) : Within (s.toneP i) (2 ^ 33) := by
  have hcount : s.count.toNat < 4294967296 := s.count.isLt
  have hbin : s.histAt i < 4294967296 := (s.wordAt (0x00001000 + 4 * i)).isLt
  exact (within_toneP hfin hpos hlegal i).mono (by omega)

end

/-! ### The two paths of step 5 -/

theorem tonePw_of_flat {s : State} {lo hi i : Nat} (h : feq (s.toneP hi) (s.toneP lo) = true) :
    s.tonePw lo hi i = s.toneP i := if_pos h

theorem tonePw_of_range {s : State} {lo hi i : Nat} (h : feq (s.toneP hi) (s.toneP lo) = false) :
    s.tonePw lo hi i =
      fmul (s.toneP hi) (fsqrt (fdiv (fsub (s.toneP i) (s.toneP lo)) (fsub (s.toneP hi) (s.toneP lo)))) :=
  if_neg (Bool.eq_false_iff.mp h)

/-! ### The running sums -/

section
variable {x : Nat → F64} {b n : Nat} (hx : ∀ i < n, Within (x i) b) (hb : n * b < 2 ^ 53)
include hx hb

theorem within_runningSum {i : Nat} (hi : i < n) : Within (runningSum x i) ((i + 1) * b) := by
  have hle : (i + 1) * b < 2 ^ 53 := (Nat.mul_le_mul_right b hi).trans_lt hb
  induction i with
  | zero =>
    rw [Nat.zero_add, Nat.one_mul] at hle ⊢
    have h := within_fadd within_zero (hx 0 hi) (by rwa [Nat.zero_add])
    rwa [Nat.zero_add] at h
  | succ i ih =>
    rw [Nat.succ_mul] at hle ⊢
    exact within_fadd (ih (by omega) (by omega)) (hx (i + 1) hi) hle

/-- The running sum is not below its last term (R124). -/
theorem le_runningSum {i : Nat} (hi : i < n) : f64Units (x i) ≤ f64Units (runningSum x i) := by
  have hle : (i + 1) * b < 2 ^ 53 := (Nat.mul_le_mul_right b hi).trans_lt hb
  rw [Nat.succ_mul] at hle
  cases i with
  | zero => exact (le_fadd within_zero (hx 0 hi) (by decide) (by omega)).2
  | succ i => exact (le_fadd (within_runningSum hx hb (by omega)) (hx (i + 1) hi) (by omega) (by omega)).2

/-- The running sum does not decrease (R124). -/
theorem runningSum_mono {i j : Nat} (hij : i ≤ j) (hj : j < n) :
    f64Units (runningSum x i) ≤ f64Units (runningSum x j) := by
  induction hij with
  | refl => exact le_rfl
  | @step j _ ih =>
    have hle : (j + 1 + 1) * b < 2 ^ 53 := (Nat.mul_le_mul_right b hj).trans_lt hb
    rw [Nat.succ_mul] at hle
    exact (ih (by omega)).trans (le_fadd (within_runningSum hx hb (by omega)) (hx (j + 1) hj) (by omega) (by omega)).1

end

/-! ### The weighted PDF and its sum -/

theorem fsub_mono {x x' y : F64} {b b' c : Nat} (hx : Within x b) (hx' : Within x' b') (hy : Within y c)
    (hb : b < 2 ^ 53) (hb' : b' < 2 ^ 53) (hc : c < 2 ^ 53) (hlow : f64Units y ≤ f64Units x)
    (hle : f64Units x ≤ f64Units x') : f64Units (fsub x y) ≤ f64Units (fsub x' y) := by
  rw [fsub_nonNeg hx hy hb hc hlow, fsub_nonNeg hx' hy hb' hc (hlow.trans hle), f64Units_eq_magUnits,
    f64Units_eq_magUnits (f64Round _ (f64Units x' - _) _), (f64Round_spec _ _ _).1, (f64Round_spec _ _ _).1]
  exact magUnits_strictMono.monotone (roundMag_mono one_pos one_pos (by omega))

section
variable {s : State} {lo hi : Nat} (hlegal : s.GeometryLegal) (h : s.ToneExtremes lo hi)
include hlegal h

theorem toneP_between {i : Nat} (hbin : i < 256) :
    f64Units (s.toneP lo) ≤ f64Units (s.toneP i) ∧ f64Units (s.toneP i) ≤ f64Units (s.toneP hi) := by
  obtain ⟨-, -, hleast, hgreatest⟩ := h
  have hp (j : Nat) := nonNeg_toneP hlegal j
  exact ⟨(flt_eq_false_iff (hp i) (hp lo)).mp (hleast i hbin), (flt_eq_false_iff (hp _) (hp i)).mp (hgreatest i hbin)⟩

theorem toneP_lt (hrange : feq (s.toneP hi) (s.toneP lo) = false) : f64Units (s.toneP lo) < f64Units (s.toneP hi) := by
  refine (toneP_between hlegal h h.2.1).1.lt_of_ne fun heq => Bool.eq_false_iff.mp hrange ?_
  exact (feq_iff (nonNeg_toneP hlegal hi) (nonNeg_toneP hlegal lo)).mpr heq.symm

section
variable (hfin : isfinite s.gain = true) (hpos : flt 0 s.gain = true)
include hfin hpos

/-- On the path that is not degenerate an element is pdf_max times the root of a fraction up to 1, and the fraction is 1
at pdf_max (R122, R123). -/
theorem within_tonePw_of_range (hrange : feq (s.toneP hi) (s.toneP lo) = false) {i : Nat} (hbin : i < 256) :
    Within (s.tonePw lo hi i) (2 ^ 33) ∧ (i = hi → s.tonePw lo hi i = s.toneP hi) := by
  have hp (j : Nat) := within_toneP_max hfin hpos hlegal j
  obtain ⟨hlow, hhigh⟩ := toneP_between hlegal h hbin
  have hlt := toneP_lt hlegal h hrange
  have hdn := within_fsub (hp hi) (hp lo) (by decide) (by decide) hlt.le
  have hdnpos := fsub_pos (hp hi) (hp lo) (by decide) (by decide) hlt
  have hle := fsub_mono (hp i) (hp hi) (hp lo) (by decide) (by decide) (by decide) hlow hhigh
  have hq := within_fdiv (q := 1) (within_fsub (hp i) (hp lo) (by decide) (by decide) hlow) hdn (by decide) (by decide)
    hdnpos (by decide) (by rwa [Nat.one_mul])
  obtain ⟨hroot, hroot1⟩ := fsqrt_within_1 hq
  rw [tonePw_of_range hrange]
  refine ⟨(within_fmul (hp hi) hroot (by decide) (by decide) (by decide)).mono (by decide), ?_⟩
  rintro rfl
  rw [hroot1 (fdiv_self hdn (by decide) hdnpos), fmul_1 (hp i) (by decide)]

theorem within_tonePw {i : Nat} (hbin : i < 256) : Within (s.tonePw lo hi i) (2 ^ 33) := by
  by_cases hflat : feq (s.toneP hi) (s.toneP lo) = true
  · rw [tonePw_of_flat hflat]
    exact within_toneP_max hfin hpos hlegal i
  · exact (within_tonePw_of_range hlegal h hfin hpos (Bool.eq_false_iff.mpr hflat) hbin).1

/-- The sum is finite (R125). -/
theorem within_toneS : Within (s.toneS lo hi) (256 * 2 ^ 33) :=
  within_runningSum (fun _ hbin => within_tonePw hlegal h hfin hpos hbin) (n := 256) (by decide) (by decide)

/-- The sum is not below pdf_max, which is above pdf_min (R123, R125). -/
theorem toneS_pos (hrange : feq (s.toneP hi) (s.toneP lo) = false) : 0 < f64Units (s.toneS lo hi) := by
  have hpw (i : Nat) (hbin : i < 256) := within_tonePw hlegal h hfin hpos hbin
  have hmax : s.tonePw lo hi hi = s.toneP hi :=
    (within_tonePw_of_range hlegal h hfin hpos hrange h.2.1).2 rfl
  have hterm := le_runningSum hpw (by decide) h.2.1
  have hsum := runningSum_mono hpw (by decide) (Nat.le_of_lt_succ h.2.1) (Nat.lt_succ_self 255)
  have hlt := toneP_lt hlegal h hrange
  rw [hmax] at hterm
  rw [State.toneS]
  omega

end

end

/-- Settles O20: pdf_max is among the terms of the sum, and no rounding takes a sum below one of its terms. -/
theorem nonDegeneratePdfReachesTheTable : Obligations.NonDegeneratePdfReachesTheTable := by
  intro s lo hi hlegal hvalid hfin hpos hinf hzero h hrange
  have hS := within_toneS hlegal h hfin hpos
  have hsum : feq (s.toneS lo hi) 0 = false := by
    refine Bool.eq_false_iff.mpr fun heq => ?_
    have hunits := (feq_iff (hS.nonNeg (by decide)) nonNeg_zero).mp heq
    exact (toneS_pos hlegal h hfin hpos hrange).ne' (hunits.trans f64Units_zero)
  have hflat : feq (s.toneP hi) (s.toneP lo) = true → s.pdfFallback = true := fun heq =>
    absurd heq (Bool.eq_false_iff.mp hrange)
  obtain ⟨t, hexec, -, -, -, -, ht⟩ :=
    toneCompletesWithTheStepFormulas s lo hi hlegal hvalid hfin hpos hinf hzero h hflat hsum
  refine ⟨hsum, t, hexec, ?_, by rw [ht]⟩
  rw [ht, State.vTone]
  simp

end Sys2Proof.Machine

namespace Sys2Proof.Machine

/-! ### A TONE that committed -/

/-- TONE raises, or its checks have passed and it commits the results of its steps. -/
theorem exec_tone_cases {s t : State} (h : exec .tone s = .next t) : (∃ e, t = s.raise e) ∨
    s.ToneReady ∧ ∃ r, s.toneOutcome Config.params = .ok r ∧ t = (commitTone r s).complete := by
  rw [exec_eq_runCommand] at h
  obtain rfl : runCommand [stageTone Config.params] s = t := Host.Outcome.next.inj h
  cases hstage : stageTone Config.params s with
  | error e => exact .inl ⟨e, runCommand_cons_error hstage⟩
  | ok u =>
    refine .inr ?_
    have hchecks := hstage
    rw [stageTone_eq] at hchecks
    split at hchecks
    · rename_i hdims
      split at hchecks
      · rename_i hvalid
        split at hchecks
        · rename_i hgain
          have hready : s.ToneReady := ⟨(dimsOk_iff s).mp hdims, hvalid, (gainOk_iff s).mp hgain⟩
          cases houtcome : s.toneOutcome Config.params with
          | error e =>
            rw [houtcome] at hchecks
            cases hchecks
          | ok r =>
            rw [houtcome] at hchecks
            cases hchecks
            exact ⟨hready, r, rfl, runCommand_single_ok hstage⟩
        · cases hchecks
      · cases hchecks
    · cases hchecks

/-- Some bin holds the least and some bin the greatest element (R120). -/
theorem exists_toneExtremes {s : State} (hlegal : s.GeometryLegal) : ∃ lo hi, s.ToneExtremes lo hi := by
  have hne : (Finset.range 256).Nonempty := ⟨0, Finset.mem_range.mpr (by decide)⟩
  obtain ⟨lo, hlo, hleast⟩ := Finset.exists_min_image (Finset.range 256) (fun i => f64Units (s.toneP i)) hne
  obtain ⟨hi, hhi, hgreatest⟩ := Finset.exists_max_image (Finset.range 256) (fun i => f64Units (s.toneP i)) hne
  have hp (i : Nat) := nonNeg_toneP hlegal i
  exact ⟨lo, hi, Finset.mem_range.mp hlo, Finset.mem_range.mp hhi,
    fun i hbin => (flt_eq_false_iff (hp i) (hp lo)).mpr (hleast i (Finset.mem_range.mpr hbin)),
    fun i hbin => (flt_eq_false_iff (hp hi) (hp i)).mpr (hgreatest i (Finset.mem_range.mpr hbin))⟩

/-- Results of the steps are the formulas', with a sum that is not 0. -/
theorem toneOutcome_ok {s : State} (hlegal : s.GeometryLegal) {r : ToneResult}
    (houtcome : s.toneOutcome Config.params = .ok r) :
    ∃ lo hi, s.ToneExtremes lo hi ∧ feq (s.toneS lo hi) 0 = false ∧ r = s.toneResult lo hi := by
  have hblend : ¬ ((feq s.toneKg 0 = true ∧ s.kFallback = false) ∨ isinf s.toneKg = true) := by
    intro hstep
    rw [State.toneOutcome, toneSteps_eq, toneBlend_error hstep] at houtcome
    cases houtcome
  rw [not_or, not_and, Bool.not_eq_false, Bool.not_eq_true] at hblend
  obtain ⟨hzero, hinf⟩ := hblend
  obtain ⟨lo, hi, h⟩ := exists_toneExtremes hlegal
  have hflat : feq (s.toneP hi) (s.toneP lo) = true → s.pdfFallback = true := by
    intro hdegenerate
    by_contra hpolicy
    rw [toneOutcome_flat hlegal hinf hzero h hdegenerate (Bool.eq_false_iff.mpr hpolicy)] at houtcome
    cases houtcome
  rw [toneOutcome_eq hlegal hinf hzero h hflat] at houtcome
  by_cases hsum : feq (s.toneS lo hi) 0 = true
  · rw [if_pos hsum] at houtcome
    cases houtcome
  · rw [if_neg hsum] at houtcome
    exact ⟨lo, hi, h, Bool.eq_false_iff.mpr hsum, (Except.ok.inj houtcome).symm⟩

theorem fdiv_mono {x x' y : F64} {b b' c : Nat} (hx : Within x b) (hx' : Within x' b') (hy : Within y c)
    (hb : b < 2 ^ 53) (hb' : b' < 2 ^ 53) (hc : c < 2 ^ 53) (hpos : 0 < f64Units y) (hle : f64Units x ≤ f64Units x') :
    f64Units (fdiv x y) ≤ f64Units (fdiv x' y) := by
  rw [fdiv_nonNeg hx hy hb hc hpos, fdiv_nonNeg hx' hy hb' hc hpos, f64Units_eq_magUnits,
    f64Units_eq_magUnits (f64Round _ (f64Units x' * _) _), (f64Round_spec _ _ _).1, (f64Round_spec _ _ _).1]
  exact magUnits_strictMono.monotone
    (roundMag_mono hpos hpos (Nat.mul_le_mul_right _ (Nat.mul_le_mul_right _ hle)))

section
variable {s : State} {lo hi : Nat} (hlegal : s.GeometryLegal) (h : s.ToneExtremes lo hi)
  (hfin : isfinite s.gain = true) (hpos : flt 0 s.gain = true) (hsum : feq (s.toneS lo hi) 0 = false)
include hlegal h hfin hpos hsum

/-- The sums divided by the last of them: at most 1, not decreasing, and 1 at the end (R126). -/
theorem toneCdf_range {i : Nat} (hbin : i < 256) : Within (s.toneCdf lo hi i) 1 ∧
    (∀ j, i ≤ j → j < 256 → f64Units (s.toneCdf lo hi i) ≤ f64Units (s.toneCdf lo hi j)) ∧
    (i = 255 → s.toneCdf lo hi i = f64_1) := by
  have hpw (i : Nat) (hbin : i < 256) := within_tonePw hlegal h hfin hpos hbin
  have hterm (i : Nat) (hbin : i < 256) : Within (runningSum (s.tonePw lo hi) i) (256 * 2 ^ 33) :=
    (within_runningSum hpw (by decide) hbin).mono (Nat.mul_le_mul_right _ hbin)
  have hS := within_toneS hlegal h hfin hpos
  have hne : 0 < f64Units (s.toneS lo hi) := by
    refine Nat.pos_of_ne_zero fun hzero => Bool.eq_false_iff.mp hsum ?_
    exact (feq_iff (hS.nonNeg (by decide)) nonNeg_zero).mpr (hzero.trans f64Units_zero.symm)
  have hcdf (i : Nat) : s.toneCdf lo hi i = fdiv (runningSum (s.tonePw lo hi) i) (s.toneS lo hi) := by
    rw [State.toneCdf]
  have hle := runningSum_mono hpw (by decide) (Nat.le_of_lt_succ hbin) (Nat.lt_succ_self 255)
  rw [← State.toneS] at hle
  refine ⟨?_, fun j hij hj => ?_, ?_⟩
  · rw [hcdf]
    exact within_fdiv (hterm i hbin) hS (by decide) (by decide) hne (by decide) (by rwa [Nat.one_mul])
  · rw [hcdf, hcdf]
    exact fdiv_mono (hterm i hbin) (hterm j hj) hS (by decide) (by decide) (by decide) hne
      (runningSum_mono hpw (by decide) hij hj)
  · rintro rfl
    rw [hcdf, ← State.toneS]
    exact fdiv_self hS (by decide) hne

end

/-- Settles O21: the running sums rise to their last, by which they are divided. -/
theorem cdfRisesToOne : Obligations.CdfRisesToOne := by
  intro s t _ hexec herr
  obtain ⟨e, rfl⟩ | ⟨⟨hlegal, hvalid, hfin, hpos⟩, r, houtcome, rfl⟩ := exec_tone_cases hexec
  · rw [err_raise] at herr
    exact absurd herr (by decide)
  obtain ⟨lo, hi, h, hsum, rfl⟩ := toneOutcome_ok hlegal houtcome
  have hcdf (i : Nat) (hbin : i < 256) :
      (commitTone (s.toneResult lo hi) s).complete.cdfwAt i = s.toneCdf lo hi i := by
    rw [cdfwAt_complete, cdfwAt_commitTone (toneResult_sized s lo hi) s hbin (toneResult_cdfw s lo hi hbin)]
  have hrange (i : Nat) (hbin : i < 256) := toneCdf_range hlegal h hfin hpos hsum hbin
  have hnonneg (i : Nat) (hbin : i < 256) : NonNeg (s.toneCdf lo hi i) := (hrange i hbin).1.nonNeg (by decide)
  refine ⟨?_, fun i hbin => ?_, fun i hbin => ?_⟩
  · rw [hcdf 255 (by decide)]
    exact (hrange 255 (by decide)).2.2 rfl
  · rw [hcdf i hbin]
    refine ⟨(flt_eq_false_iff (hnonneg i hbin) nonNeg_zero).mpr ?_,
      (flt_eq_false_iff nonNeg_1 (hnonneg i hbin)).mpr ?_, isnan_of_nonNeg (hnonneg i hbin)⟩
    · rw [f64Units_zero]
      exact Nat.zero_le _
    · rw [f64Units_1]
      exact (hrange i hbin).1.2.trans_eq (Nat.one_mul _)
  · rw [hcdf i (by omega), hcdf (i + 1) (by omega)]
    exact (flt_eq_false_iff (hnonneg (i + 1) (by omega)) (hnonneg i (by omega))).mpr
      ((hrange i (by omega)).2.1 (i + 1) (Nat.le_succ i) (by omega))

/-! ### Statistics that are 0 -/

section
variable {s : State} (hlegal : s.GeometryLegal) (hfin : isfinite s.gain = true) (hpos : flt 0 s.gain = true)
  (hcount : s.count = 0) (hbins : ∀ v < 256, s.histAt v = 0)
include hlegal hfin hpos hcount hbins

/-- Statistics that are 0 give a PDF that is 0 (R118, R133). -/
theorem toneP_eq_zero {i : Nat} (hbin : i < 256) : s.toneP i = 0 := by
  have h := within_toneP hfin hpos hlegal i
  rw [hcount, hbins i hbin] at h
  exact h.eq_zero

/-- Every bin of a PDF that is 0 is least and greatest, and the sum of the fallback of step 5 is 0 (R133). -/
theorem toneS_eq_zero : s.ToneExtremes 0 0 ∧ feq (s.toneP 0) (s.toneP 0) = true ∧ s.toneS 0 0 = 0 := by
  have hp {i : Nat} (hbin : i < 256) := toneP_eq_zero hlegal hfin hpos hcount hbins hbin
  have hlt : flt 0 0 = false := (flt_eq_false_iff nonNeg_zero nonNeg_zero).mpr le_rfl
  have hflat : feq (s.toneP 0) (s.toneP 0) = true := by
    rw [hp (by decide)]
    exact (feq_iff nonNeg_zero nonNeg_zero).mpr rfl
  refine ⟨⟨by decide, by decide, fun i hbin => ?_, fun i hbin => ?_⟩, hflat, ?_⟩
  · rw [hp hbin, hp (by decide), hlt]
  · rw [hp hbin, hp (by decide), hlt]
  · have hpw (i : Nat) (hbin : i < 256) : Within (s.tonePw 0 0 i) 0 := by
      rw [State.tonePw, if_pos hflat, hp hbin]
      exact within_zero
    rw [State.toneS]
    exact (within_runningSum hpw (by decide) (Nat.lt_succ_self 255)).eq_zero

end

/-- Settles O22: with COUNT and the bins 0 every step's values are 0, and O19 says at which step TONE raises then. -/
theorem zeroCountNeverGivesATable : Obligations.ZeroCountNeverGivesATable := by
  intro s hlegal hvalid hfin hpos hinf hcount hbins
  obtain ⟨-, -, -, hsteps⟩ := toneRaisesItsErrorsInOrder s
  obtain ⟨hstep2, hlater⟩ := hsteps hlegal hvalid hfin hpos
  obtain ⟨h, hflat, hsum⟩ := toneS_eq_zero hlegal hfin hpos hcount hbins
  have hkg : feq s.toneKg 0 = true ↔ s.k = 0 := by
    rw [State.toneKg, feq_fmul_ofNat_zero_iff (s.k.isLt.trans (by decide)) hfin hpos, ← BitVec.toNat_inj]
    rfl
  by_cases hk : s.k = 0 ∧ s.kFallback = false
  · rw [if_pos hk]
    exact hstep2 (.inl ⟨hkg.mpr hk.1, hk.2⟩)
  · rw [if_neg hk]
    have hzero : feq s.toneKg 0 = true → s.kFallback = true := fun hz =>
      (Bool.eq_false_or_eq_true _).resolve_right fun hpolicy => hk ⟨hkg.mp hz, hpolicy⟩
    obtain ⟨hstep5, hstep6⟩ := hlater 0 0 hinf hzero h
    by_cases hpolicy : s.pdfFallback = false
    · rw [if_pos hpolicy]
      exact hstep5 hflat hpolicy
    · rw [if_neg hpolicy]
      refine hstep6 (fun _ => Bool.not_eq_false _ |>.mp hpolicy) ?_
      rw [hsum]
      exact (feq_iff nonNeg_zero nonNeg_zero).mpr rfl

end Sys2Proof.Machine

/-! ## Settling O34: the stages in the order of what they write, and a second run that finds its own results -/

namespace Sys2Proof.Machine

/-! ### A storage in canonical form is what its bytes say -/

theorem mem_iff_written {m : Memory} (hwf : m.wf = true) (a : Nat) (v : Byte) :
    (a, v) ∈ m ↔ m.written a = some v := by
  rw [wf_iff_pairwise] at hwf
  rw [Memory.written]
  induction m with
  | nil => simp
  | cons c m ih =>
    obtain ⟨hhead, htail⟩ := List.pairwise_cons.mp hwf
    rw [List.mem_cons, List.lookup_cons]
    by_cases hca : a = c.1
    · subst hca
      have hout : (c.1, v) ∉ m := fun hin => Nat.lt_irrefl c.1 (hhead (c.1, v) hin)
      simp [hout, Prod.ext_iff, eq_comm]
    · simp [hca, ih htail, Prod.ext_iff, beq_eq_false_iff_ne.mpr hca]

theorem Memory.ext_written {m m' : Memory} (hwf : m.wf = true) (hwf' : m'.wf = true)
    (h : ∀ a, m.written a = m'.written a) : m = m' := by
  have hirrefl : Std.Irrefl fun c d : Host.Cell => c.1 < d.1 := ⟨fun c => Nat.lt_irrefl c.1⟩
  refine List.Pairwise.eq_of_mem_iff ((wf_iff_pairwise m).mp hwf) ((wf_iff_pairwise m').mp hwf') fun c => ?_
  rw [mem_iff_written hwf, mem_iff_written hwf', h]

/-- A store that fits its buffer leaves the bytes of every other place. -/
theorem written_store_outside (m : Memory) {b : Buffer} {bs : List Byte} (hfit : bs.length ≤ b.bytes Config.params)
    {a : Nat} (h : bufferAt Config.params a ≠ some b) : (m.store b bs).written a = m.written a := by
  rw [Ne, bufferAt_iff] at h
  exact written_write_outside m b.base a bs (by omega)

/-- A store is without effect where the buffer already holds what that store left. -/
theorem store_again {m m' : Memory} {b : Buffer} {bs : List Byte} (hwf : m'.wf = true)
    (hfit : bs.length ≤ b.bytes Config.params)
    (h : ∀ a, bufferAt Config.params a = some b → m'.written a = (m.store b bs).written a) : m'.store b bs = m' := by
  refine Memory.ext_written (wf_store hwf b bs) hwf fun a => ?_
  by_cases ha : bufferAt Config.params a = some b
  · rw [h a ha, Memory.store, Memory.store, written_write, written_write]
    split
    · rfl
    · rename_i hout
      rw [h a ha, Memory.store, written_write, if_neg hout]
  · exact written_store_outside m' hfit ha

theorem wf_toneStore {m : Memory} (h : m.wf = true) (r : ToneResult) : (toneStore r m).wf = true :=
  wf_store (wf_store (wf_store (wf_store (wf_store h _ _) _ _) _ _) _ _) _ _

theorem toneStore_again {m m' : Memory} {r : ToneResult} (hr : r.Sized) (hwf : m'.wf = true)
    (h : ∀ b ∈ toneBuffers, ∀ a, bufferAt Config.params a = some b → m'.written a = (toneStore r m).written a) :
    toneStore r m' = m' := by
  refine Memory.ext_written (wf_toneStore hwf r) hwf fun a => ?_
  by_cases ha : ∃ b ∈ toneBuffers, bufferAt Config.params a = some b
  · obtain ⟨b, hb, hplace⟩ := ha
    rw [h b hb a hplace, written_toneStore_inside hr m' hb hplace, written_toneStore_inside hr m hb hplace]
  · exact written_toneStore_outside hr m' fun b hb hplace => ha ⟨b, hb, hplace⟩

theorem setBit_of_getLsbD {w : Word} {i : Nat} {b : Bool} (h : w.getLsbD i = b) : setBit w i b = w := by
  refine BitVec.eq_of_getLsbD_eq fun j hj => ?_
  rw [getLsbD_setBit w i b j hj]
  split
  · rename_i hji
    rw [hji, h]
  · rfl

theorem getElem_setBit (w : Word) (i : Nat) (b : Bool) (j : Nat) (hj : j < 32) :
    (setBit w i b)[j] = if j = i then b else w[j] := getLsbD_setBit w i b j hj

/-! ### States that agree below a level -/

namespace State.AgreesBelow

variable {k l : Nat} {x y z : State}

theorem refl (k : Nat) (x : State) : x.AgreesBelow k x := ⟨rfl, fun _ _ => rfl, fun _ _ _ _ => rfl⟩

theorem trans (h : x.AgreesBelow k y) (h' : y.AgreesBelow k z) : x.AgreesBelow k z :=
  ⟨h'.epoch.trans h.epoch, fun l hl => (h'.regs l hl).trans (h.regs l hl),
    fun a b hb hlevel => (h'.bytes a b hb hlevel).trans (h.bytes a b hb hlevel)⟩

theorem mono (h : x.AgreesBelow k z) (hle : l ≤ k) : x.AgreesBelow l z :=
  ⟨h.epoch, fun j hj => h.regs j (hj.trans_le hle), fun a b hb hlevel => h.bytes a b hb (hlevel.trans_le hle)⟩

/-! ### The operands of the stages -/

section
variable (h : x.AgreesBelow k z) (hk : 0 < k)
include h hk

theorem config : z.ctrl = x.ctrl ∧ z.width = x.width ∧ z.height = x.height ∧ z.rawLen = x.rawLen ∧
    z.threshold = x.threshold ∧ z.gain = x.gain := by
  simpa [and_assoc] using h.regs 0 hk

theorem rawLen : z.rawLen = x.rawLen := by
  obtain ⟨-, -, -, hrawLen, -, -⟩ := h.config hk
  exact hrawLen

theorem flatZero : z.flatZero = x.flatZero := by
  obtain ⟨hctrl, -⟩ := h.config hk
  rw [State.flatZero, State.flatZero, hctrl]

theorem thresholdValue : z.thresholdValue = x.thresholdValue := by
  obtain ⟨-, -, -, -, hthreshold, -⟩ := h.config hk
  rw [State.thresholdValue, State.thresholdValue, hthreshold]

theorem gainValue : z.gainValue = x.gainValue := by
  obtain ⟨-, -, -, -, -, hgain⟩ := h.config hk
  exact hgain

theorem frameW : z.frameW = x.frameW := by
  obtain ⟨-, hwidth, -⟩ := h.config hk
  rw [State.frameW, State.frameW, hwidth]

theorem frameH : z.frameH = x.frameH := by
  obtain ⟨-, -, hheight, -⟩ := h.config hk
  rw [State.frameH, State.frameH, hheight]

theorem pixels : z.pixels = x.pixels := by
  rw [State.pixels, State.pixels, h.frameW hk, h.frameH hk]

theorem dimsOk : z.dimsOk Config.params = x.dimsOk Config.params := by
  rw [State.dimsOk, State.dimsOk, h.pixels hk, h.frameW hk, h.frameH hk]

end

theorem bufferBytes (h : x.AgreesBelow k z) {b : Buffer} (hk : b.level < k) {n : Nat} (hn : n ≤ b.bytes Config.params) :
    z.bufferBytes b n = x.bufferBytes b n := by
  rw [State.bufferBytes, State.bufferBytes, read_eq_map, read_eq_map]
  refine List.map_congr_left fun a ha => ?_
  simp only [offsetsFrom, List.mem_map, List.mem_range] at ha
  have hplace : bufferAt Config.params a = some b := (bufferAt_iff a b).mpr (by omega)
  rw [Memory.byteAt, Memory.byteAt, h.epoch, h.bytes a b hplace hk]

theorem vF16 (h : x.AgreesBelow k z) (hk : 1 < k) : z.vF16 = x.vF16 := by
  simpa using h.regs 1 hk

theorem vF8in (h : x.AgreesBelow k z) (hk : 2 < k) : z.vF8in = x.vF8in := by
  have hflags := congrArg Prod.fst (h.regs 2 hk)
  exact (List.cons.inj hflags).1

theorem stats (h : x.AgreesBelow k z) (hk : 3 < k) : z.vStats = x.vStats ∧ z.k = x.k ∧ z.count = x.count := by
  simpa using h.regs 3 hk

theorem vTone (h : x.AgreesBelow k z) (hk : 4 < k) : z.vTone = x.vTone := by
  have hflags := congrArg Prod.fst (h.regs 4 hk)
  exact (List.cons.inj hflags).1

theorem toneOutcome (h : x.AgreesBelow k z) (hk : 3 < k) :
    z.toneOutcome Config.params = x.toneOutcome Config.params := by
  obtain ⟨hctrl, -, -, -, -, hgain⟩ := h.config (by omega)
  obtain ⟨-, hK, hcount⟩ := h.stats hk
  have hhist : z.histBins = x.histBins := congrArg wordsOfBytes (h.bufferBytes (b := .hist) hk (by decide))
  rw [State.toneOutcome, State.toneOutcome, h.pixels (by omega), hK, hcount, hhist, toneSteps, toneSteps,
    State.kFallback, State.kFallback, State.pdfFallback, State.pdfFallback, State.table0Copy, State.table0Copy,
    State.gainValue, State.gainValue, hctrl, hgain]

theorem lutTable (h : x.AgreesBelow k z) (hk : 4 < k) : z.lutTable = x.lutTable :=
  h.bufferBytes (b := .lut) hk (by decide)

section
variable (h : x.AgreesBelow k z) (hlegal : x.dimsOk Config.params = true)
include h hlegal

theorem rawBytes (hk : 0 < k) : z.rawBytes = x.rawBytes := by
  obtain ⟨-, -, hmax⟩ := (dimsOk_iff x).mp hlegal
  rw [State.rawBytes, State.rawBytes, h.pixels hk]
  exact h.bufferBytes (b := .raw) hk (Nat.le_trans (Nat.mul_le_mul_left 2 hmax) (by decide))

theorem f16Samples (hk : 1 < k) : z.f16Samples = x.f16Samples := by
  obtain ⟨-, -, hmax⟩ := (dimsOk_iff x).mp hlegal
  rw [State.f16Samples, State.f16Samples, h.pixels (by omega)]
  exact congrArg halvesOfBytes (h.bufferBytes (b := .f16) hk (Nat.mul_le_mul_left 2 hmax))

theorem f8inPixels (hk : 2 < k) : z.f8inPixels = x.f8inPixels := by
  obtain ⟨-, -, hmax⟩ := (dimsOk_iff x).mp hlegal
  rw [State.f8inPixels, State.f8inPixels, h.pixels (by omega)]
  exact h.bufferBytes (b := .f8in) hk (Nat.le_trans hmax (by decide))

end

end State.AgreesBelow

/-! ### A commit at a level -/

/-- A commit at level k: it keeps every level below, and it is without effect on a state that holds what it left. -/
def CommitsAt (k : Nat) (commit : State → State) (x : State) : Prop :=
  x.AgreesBelow k (commit x) ∧
    ∀ z : State, (commit x).AgreesBelow (k + 1) z → z.mem.wf = true → commit z = z

/-- The memory of a commit that stores into one buffer. -/
theorem written_store_below (m : Memory) {b : Buffer} {bs : List Byte} (hfit : bs.length ≤ b.bytes Config.params) :
    ∀ a c, bufferAt Config.params a = some c → c.level < b.level → (m.store b bs).written a = m.written a := by
  intro a c hplace hlevel
  refine written_store_outside m hfit fun hb => ?_
  rw [Option.some.inj (hplace.symm.trans hb)] at hlevel
  exact Nat.lt_irrefl _ hlevel

section
variable {x : State}

theorem commitsAt_commitF16 {xs : List Half} (hlen : xs.length ≤ Config.params.maxPixels) :
    CommitsAt Buffer.f16.level (commitF16 xs) x := by
  have hfit : (xs.flatMap halfBytes).length ≤ Buffer.f16.bytes Config.params := by
    rw [flatMap_length_const _ 2 halfBytes_length]
    exact Nat.mul_le_mul_left 2 hlen
  refine ⟨⟨rfl, fun l hl => ?_, written_store_below x.mem hfit⟩, fun z hz hwf => ?_⟩
  · obtain rfl : l = 0 := Nat.lt_one_iff.mp hl
    rfl
  · have hmem : z.mem.store .f16 (xs.flatMap halfBytes) = z.mem :=
      store_again hwf hfit fun a ha => hz.bytes a _ ha (by decide)
    have hvalid : z.vF16 = true := by
      rw [hz.vF16 (by decide), vF16_eq, commitF16_valid, getLsbD_setBit _ _ _ _ (by decide), if_pos rfl]
    rw [commitF16, hmem, setBit_of_getLsbD hvalid]

theorem commitsAt_commitCompress {px : List Byte} (hlen : px.length ≤ Config.params.maxPixels) (lo hi : Nat)
    (flat : Bool) : CommitsAt Buffer.f8in.level (commitCompress px lo hi flat) x := by
  have hfit : px.length ≤ Buffer.f8in.bytes Config.params := Nat.le_trans hlen (by decide)
  refine ⟨⟨rfl, fun l hl => ?_, written_store_below x.mem hfit⟩, fun z hz hwf => ?_⟩
  · have hl : l < 2 := hl
    interval_cases l <;> simp [vF16_eq, getElem_setBit]
  · have hmem : z.mem.store .f8in px = z.mem := store_again hwf hfit fun a ha => hz.bytes a _ ha (by decide)
    obtain ⟨⟨hvalid, hflat⟩, hminv, hmaxv⟩ : (z.vF8in = true ∧ z.fallback.getLsbD 0 = flat) ∧
        z.minv = BitVec.ofNat 32 lo ∧ z.maxv = BitVec.ofNat 32 hi := by
      simpa [vF8in_eq, getElem_setBit, fallbackCompress] using hz.regs 2 (by decide)
    rw [commitCompress, hmem, setBit_of_getLsbD hvalid, fallbackCompress, setBit_of_getLsbD hflat, ← hminv, ← hmaxv]

theorem commitsAt_commitHist (counted : List Byte) (k count : Nat) :
    CommitsAt Buffer.hist.level (commitHist (histBinsOf counted) k count) x := by
  have hfit : ((histBinsOf counted).flatMap fun n => wordElemBytes (BitVec.ofNat 32 n)).length ≤
      Buffer.hist.bytes Config.params := by
    rw [flatMap_length_const _ 4 fun n => wordElemBytes_length (BitVec.ofNat 32 n), histBinsOf, List.length_map,
      List.length_range]
    decide
  refine ⟨⟨rfl, fun l hl => ?_, written_store_below x.mem hfit⟩, fun z hz hwf => ?_⟩
  · have hl : l < 3 := hl
    interval_cases l <;> simp [vF16_eq, getElem_setBit, vF8in_eq]
  · have hmem := store_again hwf hfit fun a ha => hz.bytes a _ ha (by decide)
    obtain ⟨hvalid, hk, hcount⟩ : z.vStats = true ∧ z.k = BitVec.ofNat 32 k ∧ z.count = BitVec.ofNat 32 count := by
      simpa [vStats_eq, getElem_setBit] using hz.regs 3 (by decide)
    rw [commitHist, hmem, setBit_of_getLsbD hvalid, ← hk, ← hcount]

theorem commitsAt_commitRemap {px : List Byte} (hlen : px.length ≤ Config.params.maxPixels) :
    CommitsAt Buffer.f8out.level (commitRemap px) x := by
  have hfit : px.length ≤ Buffer.f8out.bytes Config.params := Nat.le_trans hlen (by decide)
  refine ⟨⟨rfl, fun l hl => ?_, written_store_below x.mem hfit⟩, fun z hz hwf => ?_⟩
  · have hl : l < 5 := hl
    interval_cases l <;> simp [vF16_eq, getElem_setBit, vF8in_eq, vStats_eq, vTone_eq]
  · have hmem : z.mem.store .f8out px = z.mem := store_again hwf hfit fun a ha => hz.bytes a _ ha (by decide)
    have hvalid : z.vOut = true := by
      simpa [vOut_eq, getElem_setBit] using hz.regs 5 (by decide)
    rw [commitRemap, hmem, setBit_of_getLsbD hvalid]

theorem level_of_mem_toneBuffers {b : Buffer} (h : b ∈ toneBuffers) : b.level = 4 := by
  revert b
  decide

theorem commitsAt_commitTone {r : ToneResult} (hr : r.Sized) : CommitsAt Buffer.lut.level (commitTone r) x := by
  refine ⟨⟨rfl, fun l hl => ?_, fun a c hplace hlevel => ?_⟩, fun z hz hwf => ?_⟩
  · have hl : l < 4 := hl
    interval_cases l <;> simp [vF16_eq, getElem_setBit, vF8in_eq, fallbackTone, vStats_eq]
  · rw [commitTone_mem]
    refine written_toneStore_outside hr x.mem fun b hb hb' => ?_
    rw [Option.some.inj (hplace.symm.trans hb'), level_of_mem_toneBuffers hb] at hlevel
    exact Nat.lt_irrefl _ hlevel
  · have hmem : toneStore r z.mem = z.mem := toneStore_again hr hwf fun b hb a ha => by
      rw [hz.bytes a b ha (by rw [level_of_mem_toneBuffers hb]; decide), commitTone_mem]
    obtain ⟨⟨hvalid, hkUsed, hpdfUsed⟩, hkexp, hkg, hkprime, hu, hpdfmin, hpdfmax, hcdfsum⟩ :
        (z.vTone = true ∧ z.fallback.getLsbD 1 = r.blend.fallback ∧ z.fallback.getLsbD 2 = r.pdfFallback) ∧
          z.kexp = BitVec.ofInt 32 r.blend.e ∧ z.kg = r.blend.kg ∧ z.kprime = r.blend.kprime ∧ z.u = r.u ∧
          z.pdfmin = r.pdfmin ∧ z.pdfmax = r.pdfmax ∧ z.cdfsum = r.cdfsum := by
      simpa [vTone_eq, fallbackTone, getElem_setBit] using hz.regs 4 (by decide)
    rw [commitTone, hmem, setBit_of_getLsbD hvalid, fallbackTone, setBit_of_getLsbD hkUsed, setBit_of_getLsbD hpdfUsed,
      ← hkg, ← hkprime, ← hkexp, ← hu, ← hpdfmin, ← hpdfmax, ← hcdfsum]

end

/-! ### The stages at their levels -/

/-- On every state that has what x has below k, the stage gives one and the same error, or makes one and the same commit
at level k. -/
def Stage.AlikeFrom (k : Nat) (stage : Stage) (x : State) : Prop :=
  (∃ e, ∀ z, x.AgreesBelow k z → stage z = .error e) ∨
    ∃ commit, CommitsAt k commit x ∧ ∀ z, x.AgreesBelow k z → stage z = .ok (commit z)

/-- A stage at level k reads only below k, and writes only at k. -/
def Stage.At (k : Nat) (stage : Stage) : Prop := ∀ x, stage.AlikeFrom k x

namespace Stage.AlikeFrom

variable {k : Nat} {stage stage' : Stage} {x : State}

theorem congr (h : stage'.AlikeFrom k x) (heq : ∀ z, x.AgreesBelow k z → stage z = stage' z) : stage.AlikeFrom k x := by
  rcases h with ⟨e, herror⟩ | ⟨commit, hcommit, hok⟩
  · exact .inl ⟨e, fun z hz => (heq z hz).trans (herror z hz)⟩
  · exact .inr ⟨commit, hcommit, fun z hz => (heq z hz).trans (hok z hz)⟩

theorem error (e : StageError) : Stage.AlikeFrom k (fun _ => .error e) x := .inl ⟨e, fun _ _ => rfl⟩

theorem commit {commit : State → State} (hcommit : CommitsAt k commit x)
    (h : ∀ z, x.AgreesBelow k z → stage z = .ok (commit z)) : stage.AlikeFrom k x := .inr ⟨commit, hcommit, h⟩

/-- A check of what lies below k comes out alike. -/
theorem check {c : State → Prop} [DecidablePred c] (hc : ∀ z, x.AgreesBelow k z → (c z ↔ c x))
    (hyes : c x → stage.AlikeFrom k x) (hno : ¬ c x → stage'.AlikeFrom k x) :
    Stage.AlikeFrom k (fun z => if c z then stage z else stage' z) x := by
  by_cases h : c x
  · exact (hyes h).congr fun z hz => if_pos ((hc z hz).mpr h)
  · exact (hno h).congr fun z hz => if_neg (mt (hc z hz).mp h)

/-- The check of the geometry, which every stage makes first (R155). -/
theorem checkDims (hk : 0 < k) {e : StageError} (h : x.dimsOk Config.params = true → stage.AlikeFrom k x) :
    Stage.AlikeFrom k (fun z => if z.dimsOk Config.params then stage z else .error e) x :=
  check (fun z hz => by rw [hz.dimsOk hk]) h fun _ => error e

end Stage.AlikeFrom

theorem pixels_le {x : State} (h : x.dimsOk Config.params = true) : x.pixels ≤ Config.params.maxPixels :=
  ((dimsOk_iff x).mp h).2.2

theorem stageLoad_at (opcode : Byte) (sample : Byte → Byte → Half) : (stageLoad opcode sample).At 1 := by
  intro x
  refine .checkDims (by decide) fun hlegal =>
    .check (fun z hz => by rw [hz.rawLen (by decide), hz.pixels (by decide)]) (fun _ => .error _) fun _ =>
    .check (fun z hz => by rw [hz.rawLen (by decide), hz.pixels (by decide)]) (fun _ => .error _) fun _ => ?_
  have hlen : (samplesOf sample x.rawBytes).length ≤ Config.params.maxPixels :=
    (samplesOf_length sample x.pixels _ (rawBytes_length x)).trans_le (pixels_le hlegal)
  exact .commit (commitsAt_commitF16 hlen) fun z hz => by rw [hz.rawBytes hlegal (by decide)]

theorem stageCompress_at : (stageCompress Config.params).At 2 := by
  intro x
  rw [funext (stageCompress_eq Config.params)]
  refine .checkDims (by decide) fun hlegal =>
    .check (fun z hz => by rw [hz.vF16 (by decide)]) (fun _ => ?_) fun _ => .error _
  have hread {z : State} (hz : x.AgreesBelow 2 z) : z.f16Samples = x.f16Samples := hz.f16Samples hlegal (by decide)
  have hlen (f : Half → Byte) : (x.f16Samples.map f).length ≤ Config.params.maxPixels := by
    rw [List.length_map, f16Samples_length]
    exact pixels_le hlegal
  refine .check (fun z hz => by rw [hread hz])
    (fun _ => .check (fun z hz => by rw [hz.flatZero (by decide)]) (fun _ => ?_) fun _ => .error _) fun _ => ?_
  · exact .commit (commitsAt_commitCompress (hlen _) _ _ true) fun z hz => by rw [hread hz]
  · exact .commit (commitsAt_commitCompress (hlen _) _ _ false) fun z hz => by rw [hread hz]

theorem stageHist_at : (stageHist Config.params).At 3 := by
  intro x
  rw [funext (stageHist_eq Config.params)]
  refine .checkDims (by decide) fun hlegal =>
    .check (fun z hz => by rw [hz.vF8in (by decide)]) (fun _ => ?_) fun _ => .error _
  exact .commit (commitsAt_commitHist _ _ _) fun z hz => by
    rw [hz.thresholdValue (by decide), hz.frameW (by decide), hz.f8inPixels hlegal (by decide)]

theorem stageTone_at : (stageTone Config.params).At 4 := by
  intro x
  rw [funext (stageTone_eq Config.params)]
  refine .checkDims (by decide) fun _ =>
    .check (fun z hz => by rw [(hz.stats (by decide)).1]) (fun _ =>
      .check (fun z hz => by rw [hz.gainValue (by decide)]) (fun _ => ?_) fun _ => .error _) fun _ => .error _
  cases houtcome : x.toneOutcome Config.params with
  | error e => exact (Stage.AlikeFrom.error e).congr fun z hz => by rw [hz.toneOutcome (by decide), houtcome]
  | ok r =>
    have hsized : r.Sized := toneSteps_sized (by rw [List.length_map, histBins_length]) houtcome
    exact .commit (commitsAt_commitTone hsized) fun z hz => by rw [hz.toneOutcome (by decide), houtcome]

theorem stageRemap_at : (stageRemap Config.params).At 5 := by
  intro x
  rw [funext (stageRemap_eq Config.params)]
  refine .checkDims (by decide) fun hlegal =>
    .check (fun z hz => by rw [hz.vF8in (by decide), hz.vTone (by decide)]) (fun _ => ?_) fun _ => .error _
  have hlen : (x.f8inPixels.map (lutEntry x.lutTable)).length ≤ Config.params.maxPixels := by
    rw [List.length_map, f8inPixels_length]
    exact pixels_le hlegal
  exact .commit (commitsAt_commitRemap hlen) fun z hz => by
    rw [hz.f8inPixels hlegal (by decide), hz.lutTable (by decide)]

/-! ### The run of stages at rising levels, again -/

/-- z is a state in canonical form with every operand and result of t. -/
def State.AgreesWith (t z : State) : Prop := (∀ k, t.AgreesBelow k z) ∧ z.mem.wf = true

/-- A run of stages at rising levels keeps what lies below all of them. On a state that has all that the run left, the
stages find the operands they had, so each commits what stands there already, and the run ends where it ended (R135, R140). -/
theorem runStages_again {levels : List Nat} {stages : List Stage} (hat : List.Forall₂ Stage.At levels stages)
    (hrising : levels.Pairwise (· < ·)) (x : State) :
    (∀ k, (∀ l ∈ levels, k ≤ l) → x.AgreesBelow k (runStages stages x).1) ∧
      ∀ z : State, (runStages stages x).1.AgreesWith z → runStages stages z = (z, (runStages stages x).2) := by
  induction hat generalizing x with
  | nil => exact ⟨fun k _ => .refl k x, fun z _ => rfl⟩
  | @cons l stage levels rest hstage _ ih =>
    obtain ⟨habove, hrest⟩ := List.pairwise_cons.mp hrising
    rcases hstage x with ⟨e, herror⟩ | ⟨commit, ⟨hkeeps, hcommit⟩, hok⟩
    · rw [runStages_cons_error (herror x (.refl l x))]
      exact ⟨fun k _ => .refl k x, fun z hz => runStages_cons_error (herror z (hz.1 l))⟩
    · rw [runStages_cons_ok (hok x (.refl l x))]
      obtain ⟨hkept, hagain⟩ := ih hrest (commit x)
      have hkept : (commit x).AgreesBelow (l + 1) (runStages rest (commit x)).1 := hkept (l + 1) habove
      refine ⟨fun k hk => (hkeeps.trans (hkept.mono (Nat.le_succ l))).mono (hk l List.mem_cons_self), fun z hz => ?_⟩
      have hbelow : (commit x).AgreesBelow (l + 1) z := hkept.trans (hz.1 (l + 1))
      have hsame : stage z = .ok z := by
        rw [hok z (hkeeps.trans (hbelow.mono (Nat.le_succ l))), hcommit z hbelow hz.2]
      rw [runStages_cons_ok hsame]
      exact hagain z hz

/-! ### Completion, and the whole command, again -/

theorem and_mask_or_idem (st mask bits : Word) :
    ((st &&& mask) ||| bits) &&& mask ||| bits = (st &&& mask) ||| bits := by
  refine BitVec.eq_of_getLsbD_eq fun i _ => ?_
  simp only [BitVec.getLsbD_or, BitVec.getLsbD_and]
  cases st.getLsbD i <;> cases mask.getLsbD i <;> cases bits.getLsbD i <;> rfl

theorem statusCompleted_idem (st : Word) : statusCompleted (statusCompleted st) = statusCompleted st :=
  and_mask_or_idem st _ _

theorem statusFailed_idem (st : Word) (code : ErrCode) :
    statusFailed (statusFailed st code) code = statusFailed st code := by
  simp only [statusFailed, BitVec.or_assoc]
  exact and_mask_or_idem st _ _

theorem complete_idem (s : State) : s.complete.complete = s.complete := by
  rw [State.complete, State.complete_status, statusCompleted_idem]
  rfl

theorem raise_idem (s : State) (e : StageError) : (s.raise e).raise e = s.raise e := by
  rw [State.raise, State.raise, statusFailed_idem]

/-- Completion and raising touch no operand and no result (R142, R164). -/
theorem agreesWith_complete {t : State} (h : t.mem.wf = true) : t.AgreesWith t.complete :=
  ⟨fun _ => ⟨rfl, fun _ _ => rfl, fun _ _ _ _ => rfl⟩, h⟩

theorem agreesWith_raise {t : State} (h : t.mem.wf = true) (e : StageError) : t.AgreesWith (t.raise e) :=
  ⟨fun _ => ⟨rfl, fun _ _ => rfl, fun _ _ _ _ => rfl⟩, h⟩

theorem runCommand_again {levels : List Nat} {stages : List Stage} (hat : List.Forall₂ Stage.At levels stages)
    (hrising : levels.Pairwise (· < ·)) {s : State} (hwf : (runCommand stages s).mem.wf = true) :
    runCommand stages (runCommand stages s) = runCommand stages s := by
  obtain ⟨-, hagain⟩ := runStages_again hat hrising s
  rw [runCommand] at hwf
  rw [runCommand.eq_def stages s]
  match hrun : runStages stages s with
  | (t, none) =>
    rw [hrun] at hwf hagain
    rw [runCommand, hagain t.complete (agreesWith_complete (t := t) hwf)]
    exact complete_idem t
  | (t, some e) =>
    rw [hrun] at hwf hagain
    rw [runCommand, hagain (t.raise e) (agreesWith_raise (t := t) hwf e)]
    exact raise_idem t e

/-- The commands run their stages in the order of the levels; INVALIDATE has no operand and no level (R144, R148). -/
theorem exists_levels_stagesOf {i : Instr} (h : i ≠ .invalidate) :
    ∃ levels : List Nat, List.Forall₂ Stage.At levels (stagesOf i) ∧ levels.Pairwise (· < ·) := by
  have hloadBe : (stageLoadBe Config.params).At 1 := by
    rw [show stageLoadBe Config.params = stageLoad 0x01 loadBeSample from funext (stageLoadBe_eq Config.params)]
    exact stageLoad_at _ _
  have hloadNative : (stageLoadNative Config.params).At 1 := by
    rw [show stageLoadNative Config.params = stageLoad 0x02 (loadNativeSample Config.params) from
      funext (stageLoadNative_eq Config.params)]
    exact stageLoad_at _ _
  cases i with
  | nop => exact ⟨[], .nil, .nil⟩
  | loadBe => exact ⟨[1], .cons hloadBe .nil, List.pairwise_singleton _ _⟩
  | loadNative => exact ⟨[1], .cons hloadNative .nil, List.pairwise_singleton _ _⟩
  | compress => exact ⟨[2], .cons stageCompress_at .nil, List.pairwise_singleton _ _⟩
  | hist => exact ⟨[3], .cons stageHist_at .nil, List.pairwise_singleton _ _⟩
  | tone => exact ⟨[4], .cons stageTone_at .nil, List.pairwise_singleton _ _⟩
  | remap => exact ⟨[5], .cons stageRemap_at .nil, List.pairwise_singleton _ _⟩
  | enhance => exact ⟨[3, 4, 5], .cons stageHist_at (.cons stageTone_at (.cons stageRemap_at .nil)), by decide⟩
  | pipeline =>
    exact ⟨[1, 2, 3, 4, 5], .cons hloadBe (.cons stageCompress_at (.cons stageHist_at (.cons stageTone_at
      (.cons stageRemap_at .nil)))), by decide⟩
  | invalidate => exact absurd rfl h

/-- Each commit and each way to complete keeps the canonical form of the storage. -/
theorem exec_wf {i : Instr} {s t : State} (hwf : s.mem.wf = true) (h : exec i s = .next t) : t.mem.wf = true := by
  refine exec_keeps (fun x => x.mem.wf = true) (fun x y hx hc => ?_) (fun _ hx => hx) (fun _ _ hx => hx) hwf h
  obtain rfl | ⟨-, ⟨xs, rfl, -⟩ | ⟨px, lo, hi, flat, rfl, -⟩ | ⟨diffs, rfl, -⟩ | ⟨r, rfl, -⟩ | ⟨px, rfl, -⟩⟩ := hc
  · exact hx
  · exact wf_store hx _ _
  · exact wf_store hx _ _
  · exact wf_store hx _ _
  · exact wf_toneStore hx r
  · exact wf_store hx _ _

/-- Settles O34: the stages of a command rise through the levels, so the second run finds each of its results in place;
INVALIDATE writes constants. -/
theorem repeatedCommandGivesTheSameState : Obligations.RepeatedCommandGivesTheSameState := by
  intro i s t hwf h
  have hwf' : t.mem.wf = true := exec_wf hwf h
  rw [exec_eq_runCommand] at h ⊢
  cases h
  by_cases hi : i = .invalidate
  · subst hi
    exact congrArg Host.Outcome.next (complete_idem { s with valid := 0 })
  · obtain ⟨levels, hat, hrising⟩ := exists_levels_stagesOf hi
    exact congrArg Host.Outcome.next (runCommand_again hat hrising hwf')

end Sys2Proof.Machine

/-! ## Settling O4, O9, O11 and O38: a command word from its acceptance to its completion -/

namespace Sys2Proof.Machine

/-! ### The engine's turn -/

/-- The engine has the turn: the next move is its own, or none is left (R190). -/
theorem step_of_engine_turn {s : State} (h : s.moves = [] ∨ s.moves.head? = some .engine) :
    step s = engineTurn { s with moves := s.moves.tail } := by
  rcases h with hnil | hhead
  · have hsame : { s with moves := s.moves.tail } = s := by
      rw [hnil, List.tail_nil, ← hnil]
    rw [step, advance, hsame, hnil]
  · obtain ⟨rest, hmoves⟩ := List.head?_eq_some_iff.mp hhead
    rw [step, advance, hmoves]
    rfl

/-- With BUSY = 1 the engine's turn is its step (R142). -/
theorem step_engine_busy {s : State} (hbusy : s.busy = true) (h : s.moves = [] ∨ s.moves.head? = some .engine) :
    step s = engineStep { s with moves := s.moves.tail } :=
  (step_of_engine_turn h).trans (if_pos hbusy)

/-- Settles O4: the engine's step is exec of what CMD decodes to, and the move taken off the list is no part of CMD. -/
theorem stepRunsTheDecodedCommand : Obligations.StepRunsTheDecodedCommand := by
  intro s i hbusy hturn hdecode
  rw [step_engine_busy hbusy hturn, engineStep, hdecode]

/-- The engine's step ends in a completion or in a raised error, whatever word stands in CMD, and so with DONE 1;
it takes no move of the outside (R142, R159). -/
theorem engineStep_completes (s : State) : ∃ t, engineStep s = .next t ∧ t.done = true ∧ t.moves = s.moves := by
  rw [engineStep]
  split
  · rename_i i _
    have hexec := exec_eq_runCommand i s
    obtain ⟨-, -, -, -, -, -, -, -, hmoves, -⟩ := noCommandWritesTheHostsState i s _ hexec
    refine ⟨_, hexec, ?_, hmoves⟩
    rcases runCommand_cases (stagesOf i) s with ⟨x, hx⟩ | ⟨x, e, hx⟩
    · rw [hx]; exact done_complete x
    · rw [hx]; exact done_raise x e
  · exact ⟨_, rfl, done_raise s _, rfl⟩

/-- Settles O9: the turn is the engine's step, which ends idle with DONE 1 whether the word is legal or not. -/
theorem everyAcceptedCommandCompletes : Obligations.EveryAcceptedCommandCompletes := by
  intro s hbusy hturn
  obtain ⟨t, hstep, hdone, hmoves⟩ := engineStep_completes { s with moves := s.moves.tail }
  obtain ⟨t', hstep', hviol, hidle⟩ := engineStep_ends_idle { s with moves := s.moves.tail }
  obtain rfl : t = t' := Host.Outcome.next.inj (hstep.symm.trans hstep')
  exact ⟨t, (step_engine_busy hbusy hturn).trans hstep, hidle, hdone, hviol, hmoves⟩

/-! ### NOP and INVALIDATE -/

/-- Two updates of a word, each a mask and bits to set, as one update: the masks joined, where the second sets what is
left of the first's bits. -/
theorem and_or_and_or {m b m' b' n : Word} (w : Word) (hmask : m &&& m' = n) (hbits : b &&& m' ||| b' = b') :
    ((w &&& m) ||| b) &&& m' ||| b' = (w &&& n) ||| b' := by
  rw [BitVec.and_or_distrib_right, BitVec.and_assoc, hmask, BitVec.or_assoc, hbits]

/-- STATUS after an acceptance and a completion without error: DONE, and HOST_VIOL as it was (R141, R142). -/
theorem statusCompleted_statusAccepted (st : Word) :
    statusCompleted (statusAccepted st) = (st &&& 0x00000008) ||| 0x00000002 :=
  and_or_and_or st rfl rfl

/-- Settles O11: neither command checks anything; and an issued NOP is the acceptance of O38 followed by the engine's
turn of O4. -/
theorem nopAndInvalidateFollowTheirRules : Obligations.NopAndInvalidateFollowTheirRules := by
  refine ⟨fun s => rfl, fun s => rfl, fun s hidle => ?_⟩
  have hsecond := stepRunsTheDecodedCommand ((({ s with moves := [.engine] } : State).accept 0).respondOkay none) .nop
    (busy_accept { s with moves := [.engine] } 0) (.inr rfl) (decode_wordBytes_encode .nop)
  refine runsTo_succ (step_cmd_write_idle 0 [.engine] hidle) (runsTo_succ (hsecond.trans ?_) rfl)
  refine congrArg Host.Outcome.next ?_
  rw [← statusCompleted_statusAccepted]
  rfl

/-! ### The acceptance of a command word -/

theorem done_accept (s : State) (w : Word) : (s.accept w).done = false := by
  simp [State.done, statusAccepted]

/-- An acceptance clears DONE, and so the interrupt output falls (R141, R167). -/
theorem irq_accept (s : State) (w : Word) : (s.accept w).irq = false := by
  rw [State.irq, done_accept, Bool.and_false]

/-- Settles O38: CMD takes the word while the block is idle; while it is busy CMD is one of the registers that drop a
write. -/
theorem commandWordIsAcceptedWhenIdle : Obligations.CommandWordIsAcceptedWhenIdle := by
  intro s rest w hmoves
  rw [step_write_reg hmoves (by decide) (by decide)]
  refine ⟨fun hidle => ?_, fun hbusy => ?_⟩
  · have hidle' : State.busy { s with moves := rest } = false := hidle
    have hwrite := writeReg_offset_idle hidle' .cmd w
    exact ⟨_, congrArg (fun t => Host.Outcome.next (State.respondOkay t none)) hwrite,
      irq_accept { s with moves := rest } w, rfl⟩
  · have hbusy' : State.busy { s with moves := rest } = true := hbusy
    have hwrite := writeReg_offset_busy hbusy' .cmd w
    exact congrArg (fun t => Host.Outcome.next (State.respondOkay t none)) hwrite

end Sys2Proof.Machine

/-! ## Settling O28, O29 and O32: the geometry checked first, a failed stage, and the composites as their stages -/

namespace Sys2Proof.Machine

/-! ### The check of the geometry -/

/-- On illegal geometry the stage raises INVALID_DIMENSIONS under its opcode (R155, R160). -/
def Stage.ChecksGeometry (stage : Stage) (opcode : Byte) : Prop :=
  ∀ s : State, ¬ s.GeometryLegal → stage s = .error ⟨.invalidDimensions, opcode, 0⟩

theorem stageLoadBe_checksGeometry : Stage.ChecksGeometry (stageLoadBe Config.params) 0x01 := fun s h => by
  rw [stageLoadBe_eq, if_neg (mt (dimsOk_iff s).mp h)]

theorem stageLoadNative_checksGeometry : Stage.ChecksGeometry (stageLoadNative Config.params) 0x02 := fun s h => by
  rw [stageLoadNative_eq, if_neg (mt (dimsOk_iff s).mp h)]

theorem stageCompress_checksGeometry : Stage.ChecksGeometry (stageCompress Config.params) 0x03 := fun s h => by
  rw [stageCompress_eq, if_neg (mt (dimsOk_iff s).mp h)]

theorem stageHist_checksGeometry : Stage.ChecksGeometry (stageHist Config.params) 0x04 := fun s h => by
  rw [stageHist_eq, if_neg (mt (dimsOk_iff s).mp h)]

theorem stageTone_checksGeometry : Stage.ChecksGeometry (stageTone Config.params) 0x05 := fun s h => by
  rw [stageTone_eq, if_neg (mt (dimsOk_iff s).mp h)]

theorem stageRemap_checksGeometry : Stage.ChecksGeometry (stageRemap Config.params) 0x06 := fun s h => by
  rw [stageRemap_eq, if_neg (mt (dimsOk_iff s).mp h)]

/-- The first stage of a command that has one with `check_dims` makes that check first, under the opcode reported
(R155). -/
theorem firstStage_checksGeometry {i : Instr} {w : Word} (h : firstStageOf i = some w) :
    ∃ stage rest opcode, stagesOf i = stage :: rest ∧ stage.ChecksGeometry opcode ∧ opcode.setWidth 32 = w := by
  cases i with
  | nop => cases h
  | invalidate => cases h
  | loadBe => cases h; exact ⟨_, _, _, rfl, stageLoadBe_checksGeometry, rfl⟩
  | loadNative => cases h; exact ⟨_, _, _, rfl, stageLoadNative_checksGeometry, rfl⟩
  | compress => cases h; exact ⟨_, _, _, rfl, stageCompress_checksGeometry, rfl⟩
  | hist => cases h; exact ⟨_, _, _, rfl, stageHist_checksGeometry, rfl⟩
  | tone => cases h; exact ⟨_, _, _, rfl, stageTone_checksGeometry, rfl⟩
  | remap => cases h; exact ⟨_, _, _, rfl, stageRemap_checksGeometry, rfl⟩
  | enhance => cases h; exact ⟨_, _, _, rfl, stageHist_checksGeometry, rfl⟩
  | pipeline => cases h; exact ⟨_, _, _, rfl, stageLoadBe_checksGeometry, rfl⟩

/-- Settles O29: the first stage raises before any commit; NOP and INVALIDATE have no stage that checks. -/
theorem geometryIsCheckedFirst : Obligations.GeometryIsCheckedFirst := by
  refine fun i s hillegal => ⟨fun w hfirst => ?_, fun hnone => ?_⟩
  · obtain ⟨stage, rest, opcode, hstages, hcheck, rfl⟩ := firstStage_checksGeometry hfirst
    rw [exec_eq_runCommand, hstages, runCommand_cons_error (hcheck s hillegal), raise_eq_failed]
    rfl
  · cases i with
    | nop => exact ⟨_, rfl, rfl⟩
    | invalidate => exact ⟨_, rfl, rfl⟩
    | _ => cases hnone

/-! ### A command of one stage -/

/-- Every command but the composites has at most one stage (R144). -/
theorem stagesOf_length_le_one {i : Instr} (henhance : i ≠ .enhance) (hpipeline : i ≠ .pipeline) :
    stagesOf i = [] ∨ ∃ stage, stagesOf i = [stage] := by
  cases i with
  | nop => exact .inl rfl
  | enhance => exact absurd rfl henhance
  | pipeline => exact absurd rfl hpipeline
  | _ => exact .inr ⟨_, rfl⟩

/-- No stage touches ERR: only a raised error sets it (R142, R143). -/
theorem single_stage_keeps_err {i : Instr} {stage : Stage} (hone : stagesOf i = [stage]) {s t : State}
    (h : stage s = .ok t) : t.err = s.err :=
  congrArg (·.getLsbD 2) (stage_commits (i := i) (hone ▸ List.mem_singleton_self stage) h).status_eq

/-- Settles O32: a stage that commits leaves ERR 0, so that ERR 1 comes from the one stage's error, which has committed
nothing. -/
theorem failedStageWritesNothing : Obligations.FailedStageWritesNothing := by
  intro i s t henhance hpipeline hclean hexec herr
  rw [exec_eq_runCommand] at hexec
  cases hexec
  rcases stagesOf_length_le_one henhance hpipeline with hnone | ⟨stage, hone⟩
  · rw [hnone, runCommand_nil, err_complete, hclean] at herr
    cases herr
  · cases hstage : stage s with
    | ok x =>
      rw [hone, runCommand_single_ok hstage, err_complete, single_stage_keeps_err hone hstage, hclean] at herr
      cases herr
    | error e =>
      rw [hone, runCommand_cons_error hstage]
      rfl

/-! ### A completion between two stages -/

/-- A stage gives the same outcome whether or not the command before it has completed: it reads no STATUS (R75,
R145). -/
def Stage.IgnoresCompletion (stage : Stage) : Prop := ∀ s : State, stage s.complete = (stage s).map State.complete

section
variable (s : State)

/-- The operands and the checks of the stages are no part of STATUS. -/
theorem dimsOk_complete (p : Params) : s.complete.dimsOk p = s.dimsOk p := rfl
theorem pixels_complete : s.complete.pixels = s.pixels := rfl
theorem frameW_complete : s.complete.frameW = s.frameW := rfl
theorem vF16_complete : s.complete.vF16 = s.vF16 := rfl
theorem vF8in_complete : s.complete.vF8in = s.vF8in := rfl
theorem vStats_complete : s.complete.vStats = s.vStats := rfl
theorem vTone_complete : s.complete.vTone = s.vTone := rfl
theorem flatZero_complete : s.complete.flatZero = s.flatZero := rfl
theorem thresholdValue_complete : s.complete.thresholdValue = s.thresholdValue := rfl
theorem gainValue_complete : s.complete.gainValue = s.gainValue := rfl
theorem rawBytes_complete : s.complete.rawBytes = s.rawBytes := rfl
theorem f16Samples_complete : s.complete.f16Samples = s.f16Samples := rfl
theorem f8inPixels_complete : s.complete.f8inPixels = s.f8inPixels := rfl
theorem lutTable_complete : s.complete.lutTable = s.lutTable := rfl
theorem toneOutcome_complete (p : Params) : s.complete.toneOutcome p = s.toneOutcome p := rfl

end

theorem stageLoadBe_ignoresCompletion (p : Params) : Stage.IgnoresCompletion (stageLoadBe p) := by
  intro s
  rw [stageLoadBe_eq, stageLoadBe_eq, dimsOk_complete, State.complete_rawLen, pixels_complete, rawBytes_complete]
  split_ifs <;> rfl

theorem stageCompress_ignoresCompletion (p : Params) : Stage.IgnoresCompletion (stageCompress p) := by
  intro s
  rw [stageCompress_eq, stageCompress_eq, dimsOk_complete, vF16_complete, f16Samples_complete, flatZero_complete]
  split_ifs <;> rfl

theorem stageHist_ignoresCompletion (p : Params) : Stage.IgnoresCompletion (stageHist p) := by
  intro s
  rw [stageHist_eq, stageHist_eq, dimsOk_complete, vF8in_complete, thresholdValue_complete, frameW_complete,
    f8inPixels_complete]
  split_ifs <;> rfl

theorem stageTone_ignoresCompletion (p : Params) : Stage.IgnoresCompletion (stageTone p) := by
  intro s
  rw [stageTone_eq, stageTone_eq, dimsOk_complete, vStats_complete, gainValue_complete, toneOutcome_complete]
  cases s.toneOutcome p <;> split_ifs <;> rfl

theorem stageRemap_ignoresCompletion (p : Params) : Stage.IgnoresCompletion (stageRemap p) := by
  intro s
  rw [stageRemap_eq, stageRemap_eq, dimsOk_complete, vF8in_complete, vTone_complete, f8inPixels_complete,
    lutTable_complete]
  split_ifs <;> rfl

/-- An error sets BUSY and DONE as a completion does, so that one before it makes no difference (R142). -/
theorem statusFailed_statusCompleted (st : Word) (code : ErrCode) :
    statusFailed (statusCompleted st) code = statusFailed st code :=
  congrArg (· ||| code.number.setWidth 32 <<< 8) (and_or_and_or st rfl rfl)

theorem raise_complete (s : State) (e : StageError) : s.complete.raise e = s.raise e := by
  rw [State.raise, State.raise, State.complete_status, statusFailed_statusCompleted]
  rfl

/-! ### The composites -/

/-- A single command of a composite: its one stage reads no STATUS. -/
def Instr.SingleStage (i : Instr) (stage : Stage) : Prop := stagesOf i = [stage] ∧ stage.IgnoresCompletion

/-- A single command whose stage commits: the run in order goes on from its completion (R145). -/
theorem runInOrder_cons_ok {i : Instr} {stage : Stage} (hone : stagesOf i = [stage]) (rest : List Instr) {s x : State}
    (hclean : s.err = false) (h : stage s = .ok x) : runInOrder (i :: rest) s = runInOrder rest x.complete := by
  have hcontinues : x.complete.err = false := by rw [err_complete, single_stage_keeps_err hone h, hclean]
  simp [runInOrder, exec_eq_runCommand, hone, runCommand_single_ok h, hcontinues]

/-- A single command whose stage raises ends the run in order (R145). -/
theorem runInOrder_cons_error {i : Instr} {stage : Stage} (hone : stagesOf i = [stage]) (rest : List Instr) {s : State}
    {e : StageError} (h : stage s = .error e) : runInOrder (i :: rest) s = .next (s.raise e) := by
  simp [runInOrder, exec_eq_runCommand, hone, runCommand_cons_error h]

/-- From the completion of a command, single commands in order are their stages run as one command, by induction on the
commands: each stage's commit and each error is what it would be without the completion before it. -/
theorem runInOrder_complete {is : List Instr} {stages : List Stage} (h : List.Forall₂ Instr.SingleStage is stages)
    {s : State} (hclean : s.err = false) : runInOrder is s.complete = .next (runCommand stages s) := by
  induction h generalizing s with
  | nil => rfl
  | @cons i stage is stages hi _ ih =>
    obtain ⟨hone, hignores⟩ := hi
    cases hstage : stage s with
    | ok x =>
      have hafter : stage s.complete = .ok x.complete := (hignores s).trans (by rw [hstage]; rfl)
      rw [runInOrder_cons_ok hone is ((err_complete s).trans hclean) hafter, runCommand_cons_ok hstage, complete_idem]
      exact ih ((single_stage_keeps_err hone hstage).trans hclean)
    | error e =>
      have hafter : stage s.complete = .error e := (hignores s).trans (by rw [hstage]; rfl)
      rw [runInOrder_cons_error hone is hafter, runCommand_cons_error hstage, raise_complete]

/-- The same from any state, when there is a first command. -/
theorem runInOrder_eq_runCommand {i : Instr} {is : List Instr} {stages : List Stage}
    (h : List.Forall₂ Instr.SingleStage (i :: is) stages) {s : State} (hclean : s.err = false) :
    runInOrder (i :: is) s = .next (runCommand stages s) := by
  obtain _ | ⟨⟨hone, -⟩, hrest⟩ := h
  rename_i stage stages
  cases hstage : stage s with
  | ok x =>
    rw [runInOrder_cons_ok hone is hclean hstage, runCommand_cons_ok hstage]
    exact runInOrder_complete hrest ((single_stage_keeps_err hone hstage).trans hclean)
  | error e => rw [runInOrder_cons_error hone is hstage, runCommand_cons_error hstage]

/-- HIST, TONE and REMAP are the stages of ENHANCE (R151). -/
theorem enhance_singleStages : List.Forall₂ Instr.SingleStage [.hist, .tone, .remap] (stagesOf .enhance) :=
  .cons ⟨rfl, stageHist_ignoresCompletion _⟩ <| .cons ⟨rfl, stageTone_ignoresCompletion _⟩ <|
    .cons ⟨rfl, stageRemap_ignoresCompletion _⟩ .nil

/-- LOAD_BE and COMPRESS, and then the stages of ENHANCE, are those of PIPELINE (R153). -/
theorem pipeline_singleStages :
    List.Forall₂ Instr.SingleStage [.loadBe, .compress, .hist, .tone, .remap] (stagesOf .pipeline) :=
  .cons ⟨rfl, stageLoadBe_ignoresCompletion _⟩ <| .cons ⟨rfl, stageCompress_ignoresCompletion _⟩ enhance_singleStages

/-- Settles O28: the completions that single commands make between the stages are all that differs, and neither a stage
nor an error depends on them. -/
theorem compositesAreTheirSingleCommands : Obligations.CompositesAreTheirSingleCommands := by
  intro s hclean
  exact ⟨(exec_eq_runCommand .enhance s).trans (runInOrder_eq_runCommand enhance_singleStages hclean).symm,
    (exec_eq_runCommand .pipeline s).trans (runInOrder_eq_runCommand pipeline_singleStages hclean).symm⟩

end Sys2Proof.Machine

/-! ## Settling O26 and O27: the composites on a frame that has a table, stage by stage -/

namespace Sys2Proof.Machine

/-! ### The stages of ENHANCE, committed -/

/-- The state that HIST commits (R103, R110); its completion is `State.afterHist`. -/
def State.histCommit (s : State) : State :=
  commitHist (histBinsOf (histCounted s.thresholdValue s.frameDiffs)) s.frameK s.frameCount s

/-- The state that REMAP commits (R136, R140). -/
def State.remapCommit (s : State) : State := commitRemap (s.f8inPixels.map (lutEntry s.lutTable)) s

/-- The state that the stages of ENHANCE commit, with r the result of TONE (R151). -/
def State.enhanceCommit (s : State) (r : ToneResult) : State := (commitTone r s.histCommit).remapCommit

theorem stageHist_commit {s : State} (hlegal : s.GeometryLegal) (hvalid : s.vF8in = true) :
    stageHist Config.params s = .ok s.histCommit := by
  rw [stageHist_eq, if_pos ((dimsOk_iff s).mpr hlegal), if_pos hvalid, backDiffs_f8inPixels, histK_frameDiffs,
    length_histCounted_frameDiffs, State.histCommit]

theorem stageRemap_commit {s : State} (hlegal : s.GeometryLegal) (hvalid : s.vF8in = true) (htone : s.vTone = true) :
    stageRemap Config.params s = .ok s.remapCommit := by
  rw [stageRemap_eq, if_pos ((dimsOk_iff s).mpr hlegal), hvalid, htone]
  rfl

/-- Steps 2 to 7 read nothing of the state but CTRL and GAIN; the statistics are given to them (R111). -/
theorem toneSteps_congr {p : Params} {s t : State} (hctrl : t.ctrl = s.ctrl) (hgain : t.gain = s.gain)
    (n k count : Nat) (hist : List Nat) : toneSteps p t n k count hist = toneSteps p s n k count hist := by
  simp only [toneSteps, State.kFallback, State.pdfFallback, State.table0Copy, State.gainValue, hctrl, hgain]

/-- TONE after HIST works on the statistics of the frame. -/
theorem toneOutcome_histCommit {s : State} (hlegal : s.GeometryLegal) :
    s.histCommit.toneOutcome Config.params =
      toneSteps Config.params s s.pixels s.frameK s.frameCount ((List.range 256).map s.frameHist) := by
  have hk : s.histCommit.k.toNat = s.frameK := k_afterHist hlegal
  have hcount : s.histCommit.count.toNat = s.frameCount := count_afterHist hlegal
  have hhist : (List.range 256).map s.histCommit.histAt = (List.range 256).map s.frameHist :=
    List.map_congr_left fun v hv => histAt_afterHist hlegal (List.mem_range.mp hv)
  have hpixels : s.histCommit.pixels = s.pixels := rfl
  rw [State.toneOutcome, histBins_map_toNat, hk, hcount, hhist, hpixels]
  exact toneSteps_congr rfl rfl _ _ _ _

/-- The frame is one that ENHANCE takes to a table: every check of its stages passes, and r is what steps 2 to 7 make of
the statistics of the frame (R151). -/
structure State.Enhances (s : State) (r : ToneResult) : Prop where
  legal : s.GeometryLegal
  frame : s.vF8in = true
  gain : isfinite s.gain = true ∧ flt 0 s.gain = true
  table : toneSteps Config.params s s.pixels s.frameK s.frameCount ((List.range 256).map s.frameHist) = .ok r

section
variable {s : State} {r : ToneResult} (h : s.Enhances r)
include h

theorem State.Enhances.sized : r.Sized := toneSteps_sized (by simp) h.table

/-- The stages of ENHANCE run to their end: each finds the valid bit that the one before it has set. -/
theorem runCommand_enhance : runCommand (stagesOf .enhance) s = (s.enhanceCommit r).complete := by
  obtain ⟨hlegal, hvalid, hgain, htable⟩ := h
  have hstats : s.histCommit.vStats = true := by
    rw [vStats_eq]
    exact getLsbD_setBit _ 2 true 2 (by decide)
  have htone : stageTone Config.params s.histCommit = .ok (commitTone r s.histCommit) := by
    have hready : s.histCommit.ToneReady := ⟨hlegal, hstats, hgain⟩
    rw [stageTone_of_ready hready, toneOutcome_histCommit hlegal, htable]
    rfl
  have hframe : (commitTone r s.histCommit).vF8in = true :=
    (getLsbD_setBit_ne _ _ (by decide)).trans ((getLsbD_setBit_ne _ _ (by decide)).trans hvalid)
  have hvtone : (commitTone r s.histCommit).vTone = true := getLsbD_setBit _ 3 true 3 (by decide)
  rw [stagesOf, runCommand_cons_ok (stageHist_commit hlegal hvalid), runCommand_cons_ok htone,
    runCommand_single_ok (stageRemap_commit (s := commitTone r s.histCommit) hlegal hframe hvtone), State.enhanceCommit]

end

/-! ### What ENHANCE leaves in storage -/

theorem byteAt_remapCommit_outside {s : State} {a : Nat} (h : a < 0x04000000 ∨ 0x04000000 + s.pixels ≤ a) :
    s.remapCommit.byteAt a = s.byteAt a := by
  refine byteAt_write_outside s.mem s.epoch 0x04000000 a _ ?_
  rwa [List.length_map, f8inPixels_length]

/-- Every pixel of F8OUT is the table's entry for the pixel of F8IN (R136). -/
theorem f8outAt_remapCommit {s : State} {i : Nat} (h : i < s.pixels) :
    s.remapCommit.f8outAt i = s.lutAt (s.f8inAt i) := by
  have hentry : lutEntry s.lutTable (s.byteAt (0x03000000 + i)) = s.byteAt (0x00003000 + s.f8inAt i) := by
    rw [lutEntry, List.getD_eq_getElem?_getD, lutTable_getElem s _ (BitVec.isLt _)]
    rfl
  refine congrArg BitVec.toNat (byteAt_write_option s.mem s.epoch 0x04000000 i _ _ ?_)
  rw [List.getElem?_map, f8inPixels_getElem s i h]
  exact congrArg some hentry

/-- Where the bytes of a table agree, the table does. -/
theorem lutAt_congr {s t : State} {v : Nat} (h : t.byteAt (0x00003000 + v) = s.byteAt (0x00003000 + v)) :
    t.lutAt v = s.lutAt v := congrArg BitVec.toNat h

theorem f8inAt_congr {s t : State} {i : Nat} (h : t.byteAt (0x03000000 + i) = s.byteAt (0x03000000 + i)) :
    t.f8inAt i = s.f8inAt i := congrArg BitVec.toNat h

theorem f8inAt_lt (s : State) (i : Nat) : s.f8inAt i < 256 := BitVec.isLt _

section
variable {s : State} {r : ToneResult} (hr : r.Sized)
include hr

/-- ENHANCE writes HIST to LUT and F8OUT[0 .. N-1], and nothing else (R151). -/
theorem byteAt_enhanceCommit_outside {a : Nat} (htables : a < 0x00001000 ∨ 0x00003100 ≤ a)
    (hout : a < 0x04000000 ∨ 0x04000000 + s.pixels ≤ a) : (s.enhanceCommit r).byteAt a = s.byteAt a := by
  calc (s.enhanceCommit r).byteAt a = (commitTone r s.histCommit).byteAt a := byteAt_remapCommit_outside hout
    _ = s.histCommit.byteAt a := byteAt_commitTone_outside hr _ (by omega)
    _ = s.byteAt a := byteAt_commitHist_outside _ _ _ _ (by omega)

theorem histAt_enhanceCommit (hlegal : s.GeometryLegal) {v : Nat} (hv : v < 256) :
    (s.enhanceCommit r).histAt v = s.frameHist v := by
  have hbyte (a : Nat) (ha : a < 0x00001400) : (s.enhanceCommit r).byteAt a = s.histCommit.byteAt a :=
    (byteAt_remapCommit_outside (by omega)).trans (byteAt_commitTone_outside hr _ (.inl ha))
  have hword : (s.enhanceCommit r).wordAt (0x00001000 + 4 * v) = s.histCommit.wordAt (0x00001000 + 4 * v) := by
    rw [State.wordAt, State.wordAt, hbyte _ (by omega), hbyte _ (by omega), hbyte _ (by omega), hbyte _ (by omega)]
  exact (congrArg BitVec.toNat hword).trans (histAt_afterHist hlegal hv)

/-- LUT is the table of the result. -/
theorem lutAt_enhanceCommit {v : Nat} (hv : v < 256) : (s.enhanceCommit r).lutAt v = (r.lut.getD v 0).toNat := by
  have hentry : r.lut[v]? = some (r.lut.getD v 0) := by
    obtain ⟨-, -, -, -, hlut⟩ := hr
    rw [List.getD_eq_getElem?_getD, List.getElem?_eq_getElem (by omega)]
    rfl
  exact (lutAt_congr (byteAt_remapCommit_outside (by omega))).trans (lutAt_commitTone hr _ hv hentry)

theorem f8outAt_enhanceCommit {i : Nat} (hi : i < s.pixels) :
    (s.enhanceCommit r).f8outAt i = (s.enhanceCommit r).lutAt (s.f8inAt i) := by
  have hpixel : (commitTone r s.histCommit).f8inAt i = s.f8inAt i :=
    f8inAt_congr ((byteAt_commitTone_outside hr _ (by omega)).trans (byteAt_commitHist_outside _ _ _ _ (by omega)))
  have hlt := f8inAt_lt s i
  calc (s.enhanceCommit r).f8outAt i
      = (commitTone r s.histCommit).lutAt ((commitTone r s.histCommit).f8inAt i) := f8outAt_remapCommit hi
    _ = (commitTone r s.histCommit).lutAt (s.f8inAt i) := by rw [hpixel]
    _ = (s.enhanceCommit r).lutAt (s.f8inAt i) := (lutAt_congr (byteAt_remapCommit_outside (by omega))).symm

end

/-! ### What ENHANCE leaves in the registers -/

/-- The registers after ENHANCE (R151): the valid bits of its three stages are set one after another. -/
theorem enhanceCommit_complete_eq (s : State) (r : ToneResult) :
    (s.enhanceCommit r).complete =
      { s with mem := (s.enhanceCommit r).complete.mem, k := s.histCommit.k, count := s.histCommit.count,
               kg := r.blend.kg, kprime := r.blend.kprime, kexp := BitVec.ofInt 32 r.blend.e, u := r.u,
               pdfmin := r.pdfmin, pdfmax := r.pdfmax, cdfsum := r.cdfsum,
               fallback := fallbackTone s.fallback r.blend.fallback r.pdfFallback, valid := s.valid ||| 0x0000001C,
               status := completedStatus s.status } := by
  have hvalid : s.valid ||| 0x0000001C = s.valid ||| 0x00000004 ||| 0x00000008 ||| 0x00000010 := by
    rw [BitVec.or_assoc, BitVec.or_assoc]
    rfl
  rw [hvalid]
  rfl

/-- Settles O26: the three stages commit, and what each leaves is not touched by the ones after it. -/
theorem enhanceCompletes : Obligations.EnhanceCompletes := by
  intro s r hlegal hframe hfin hpos htable
  have h : s.Enhances r := ⟨hlegal, hframe, ⟨hfin, hpos⟩, htable⟩
  refine ⟨_, (exec_eq_runCommand .enhance s).trans (congrArg _ (runCommand_enhance h)), k_afterHist hlegal,
    count_afterHist hlegal, fun v hv => ⟨histAt_enhanceCommit h.sized hlegal hv, lutAt_enhanceCommit h.sized hv⟩,
    fun i hi => f8outAt_enhanceCommit h.sized hi, fun a => byteAt_enhanceCommit_outside h.sized,
    enhanceCommit_complete_eq s r, fallbackTone_eq _ _ _⟩

/-! ### The first two stages of PIPELINE, committed -/

/-- The state that LOAD_BE commits (R86). -/
def State.loadCommit (s : State) : State := commitF16 (samplesOf loadBeSample s.rawBytes) s

/-- The state that COMPRESS commits on a frame with the extremes lo and hi that is not flat (R95). -/
def State.compressCommit (s : State) (lo hi : Nat) : State :=
  commitCompress (s.f16Samples.map fun x => compressPixel lo hi x.toNat) lo hi false s

/-- lo and hi are the least and the greatest sample that LOAD_BE makes of RAW[0 .. 2N-1] (R86, R95). -/
def State.RawExtremes (s : State) (lo hi : Nat) : Prop :=
  (∃ i < s.pixels, loadBeClosed (s.sampleBE i) = lo) ∧ (∃ i < s.pixels, loadBeClosed (s.sampleBE i) = hi) ∧
    ∀ i < s.pixels, lo ≤ loadBeClosed (s.sampleBE i) ∧ loadBeClosed (s.sampleBE i) ≤ hi

theorem stageLoadBe_commit {s : State} (hlegal : s.GeometryLegal) (hlen : s.rawLen.toNat = 2 * s.pixels) :
    stageLoadBe Config.params s = .ok s.loadCommit := by
  rw [stageLoadBe_eq, if_pos ((dimsOk_iff s).mpr hlegal), if_neg (by omega), if_neg (by omega), State.loadCommit]

theorem f16At_loadCommit {s : State} {i : Nat} (hi : i < s.pixels) :
    s.loadCommit.f16At i = loadBeClosed (s.sampleBE i) :=
  (f16At_commitF16 _ s i _ (samplesOf_rawBytes_getElem hi)).trans (loadBeSample_closed _ _)

theorem byteAt_loadCommit_outside {s : State} {a : Nat} (h : a < 0x02000000 ∨ 0x02000000 + 2 * s.pixels ≤ a) :
    s.loadCommit.byteAt a = s.byteAt a := by
  refine byteAt_commitF16_outside ?_
  rwa [samplesOf_length loadBeSample s.pixels _ (rawBytes_length s)]

theorem byteAt_compressCommit_outside {s : State} {lo hi a : Nat}
    (h : a < 0x03000000 ∨ 0x03000000 + s.pixels ≤ a) : (s.compressCommit lo hi).byteAt a = s.byteAt a := by
  refine byteAt_commitCompress_outside ?_
  rwa [List.length_map, f16Samples_length]

/-- A pixel of the compressed frame is the integer quotient of R97. -/
theorem f8inAt_compressCommit {s : State} {lo hi i : Nat} (h : s.SampleExtremes lo hi) (hrange : lo ≠ hi)
    (hi' : i < s.pixels) : (s.compressCommit lo hi).f8inAt i = 255 * (s.f16At i - lo) / (hi - lo) := by
  obtain ⟨-, hmax⟩ := h.ordered
  obtain ⟨-, -, hbounds⟩ := h
  obtain ⟨hlow, hhigh⟩ := hbounds i hi'
  refine (f8inAt_commitCompress ?_).trans (toNat_compressPixel hlow hhigh hrange hmax)
  rw [List.getElem?_map, f16Samples_getElem s i hi']
  rfl

/-- The loaded frame has the extremes of the stream. -/
theorem State.RawExtremes.loadCommit {s : State} {lo hi : Nat} (h : s.RawExtremes lo hi) :
    s.loadCommit.SampleExtremes lo hi := by
  obtain ⟨⟨i, hi, hlo⟩, ⟨j, hj, hhi⟩, hbounds⟩ := h
  refine ⟨⟨i, hi, (f16At_loadCommit hi).trans hlo⟩, ⟨j, hj, (f16At_loadCommit hj).trans hhi⟩, fun k hk => ?_⟩
  rw [f16At_loadCommit (s := s) hk]
  exact hbounds k hk

/-- The loaded and compressed frame (R153). -/
def State.importCommit (s : State) (lo hi : Nat) : State := s.loadCommit.compressCommit lo hi

section
variable {s : State} {lo hi : Nat}

/-- PIPELINE is a load and a compression of the stream, and then ENHANCE on the frame that they leave (R151, R153). -/
theorem runCommand_pipeline (hlegal : s.GeometryLegal) (hlen : s.rawLen.toNat = 2 * s.pixels)
    (hextremes : s.RawExtremes lo hi) (hrange : lo ≠ hi) :
    runCommand (stagesOf .pipeline) s = runCommand (stagesOf .enhance) (s.importCommit lo hi) := by
  have hvalid : s.loadCommit.vF16 = true := getLsbD_setBit _ 0 true 0 (by decide)
  have hcompress : stageCompress Config.params s.loadCommit = .ok (s.importCommit lo hi) :=
    stageCompress_linear (s := s.loadCommit) hlegal hvalid hextremes.loadCommit hrange
  exact (runCommand_cons_ok (stageLoadBe_commit hlegal hlen)).trans (runCommand_cons_ok hcompress)

theorem byteAt_importCommit_outside {a : Nat} (hload : a < 0x02000000 ∨ 0x02000000 + 2 * s.pixels ≤ a)
    (hcompress : a < 0x03000000 ∨ 0x03000000 + s.pixels ≤ a) : (s.importCommit lo hi).byteAt a = s.byteAt a :=
  (byteAt_compressCommit_outside (s := s.loadCommit) hcompress).trans (byteAt_loadCommit_outside hload)

/-- COMPRESS leaves the loaded frame: a legal one ends below F8IN (R56, R101). -/
theorem f16At_importCommit (hlegal : s.GeometryLegal) {i : Nat} (h : i < s.pixels) :
    (s.importCommit lo hi).f16At i = loadBeClosed (s.sampleBE i) := by
  have hpixels : s.pixels ≤ 327680 := hlegal.2.2
  have hbyte (a : Nat) (ha : a < 0x03000000) : (s.importCommit lo hi).byteAt a = s.loadCommit.byteAt a :=
    byteAt_compressCommit_outside (.inl ha)
  rw [← f16At_loadCommit h, State.f16At, State.f16At, hbyte _ (by omega), hbyte _ (by omega)]

theorem f8inAt_importCommit (hextremes : s.RawExtremes lo hi) (hrange : lo ≠ hi) {i : Nat} (h : i < s.pixels) :
    (s.importCommit lo hi).f8inAt i = 255 * (loadBeClosed (s.sampleBE i) - lo) / (hi - lo) := by
  rw [← f16At_loadCommit h]
  exact f8inAt_compressCommit hextremes.loadCommit hrange h

end

/-! ### The statistics of the same frame in another state -/

/-- The pixels of a frame beside their back-differences depend on WIDTH, HEIGHT and F8IN[0 .. N-1] alone (R103). -/
theorem frameDiffs_congr {s t : State} (hwidth : t.width = s.width) (hheight : t.height = s.height)
    (hframe : ∀ i < s.pixels, t.f8inAt i = s.f8inAt i) : t.frameDiffs = s.frameDiffs := by
  have hw : t.frameW = s.frameW := congrArg BitVec.toNat hwidth
  have hpixels : t.pixels = s.pixels := congrArg₂ (fun w h : Word => w.toNat * h.toNat) hwidth hheight
  have hsame : t.f8inPixels = s.f8inPixels := by
    refine List.ext_getElem? fun i => ?_
    by_cases hi : i < s.pixels
    · rw [f8inPixels_getElem s i hi, f8inPixels_getElem t i (hpixels ▸ hi)]
      exact congrArg some (BitVec.eq_of_toNat_eq (hframe i hi))
    · rw [List.getElem?_eq_none (by rw [f8inPixels_length]; omega),
        List.getElem?_eq_none (by rw [f8inPixels_length]; omega)]
  rw [← backDiffs_f8inPixels, ← backDiffs_f8inPixels, hw, hsame]

/-- So do the statistics, with THRESHOLD (R105, R106). -/
theorem frameStatistics_congr {s t : State} (hwidth : t.width = s.width) (hheight : t.height = s.height)
    (hthreshold : t.threshold = s.threshold) (hframe : ∀ i < s.pixels, t.f8inAt i = s.f8inAt i) :
    t.frameK = s.frameK ∧ t.frameCount = s.frameCount ∧ t.frameHist = s.frameHist := by
  have hdiffs := frameDiffs_congr hwidth hheight hframe
  have hvalue : t.thresholdValue = s.thresholdValue := congrArg BitVec.toNat hthreshold
  refine ⟨?_, ?_, funext fun v => ?_⟩
  · rw [← histK_frameDiffs, ← histK_frameDiffs, hdiffs]
  · rw [← length_histCounted_frameDiffs, ← length_histCounted_frameDiffs, hdiffs, hvalue]
  · rw [← countP_histCounted_frameDiffs, ← countP_histCounted_frameDiffs, hdiffs, hvalue]

/-! ### PIPELINE -/

/-- FLAT_USED is 0 after the compression of a frame that is not flat, and K_USED and PDF_USED are those of the table
(R35). -/
theorem fallbackTone_fallbackCompress (fb : Word) (kUsed pdfUsed : Bool) :
    fallbackTone (fallbackCompress fb false) kUsed pdfUsed =
      (fb &&& 0xFFFFFFF8) ||| (if kUsed = true then 2 else 0) ||| (if pdfUsed = true then 4 else 0) := by
  have hmask : fallbackCompress fb false &&& 0xFFFFFFF9 = fb &&& 0xFFFFFFF8 := BitVec.and_assoc fb _ _
  rw [fallbackTone_eq, hmask]

/-- The registers after PIPELINE (R153): every valid bit is set, those of LOAD_BE and COMPRESS first. -/
theorem pipelineCommit_complete_eq (s : State) (r : ToneResult) (lo hi : Nat) :
    ((s.importCommit lo hi).enhanceCommit r).complete =
      { s with mem := ((s.importCommit lo hi).enhanceCommit r).complete.mem, minv := BitVec.ofNat 32 lo,
               maxv := BitVec.ofNat 32 hi, k := (s.importCommit lo hi).histCommit.k,
               count := (s.importCommit lo hi).histCommit.count, kg := r.blend.kg, kprime := r.blend.kprime,
               kexp := BitVec.ofInt 32 r.blend.e, u := r.u, pdfmin := r.pdfmin, pdfmax := r.pdfmax,
               cdfsum := r.cdfsum,
               fallback := fallbackTone (fallbackCompress s.fallback false) r.blend.fallback r.pdfFallback,
               valid := s.valid ||| 0x0000001F, status := completedStatus s.status } := by
  have hvalid : s.valid ||| 0x0000001F = s.valid ||| 0x00000001 ||| 0x00000002 ||| 0x0000001C := by
    rw [BitVec.or_assoc, BitVec.or_assoc]
    rfl
  rw [enhanceCommit_complete_eq, hvalid]
  rfl

/-- What PIPELINE leaves in F16, F8IN and F8OUT: the loaded frame, the compressed frame, and the compressed frame
through the table (R153). -/
theorem frames_pipelineCommit {s : State} {r : ToneResult} {lo hi : Nat} (hr : r.Sized) (hlegal : s.GeometryLegal)
    {i : Nat} (h : i < s.pixels) :
    ((s.importCommit lo hi).enhanceCommit r).f16At i = loadBeClosed (s.sampleBE i) ∧
      ((s.importCommit lo hi).enhanceCommit r).f8inAt i = (s.importCommit lo hi).f8inAt i ∧
      ((s.importCommit lo hi).enhanceCommit r).f8outAt i =
        ((s.importCommit lo hi).enhanceCommit r).lutAt (((s.importCommit lo hi).enhanceCommit r).f8inAt i) := by
  have hpixels : s.pixels ≤ 327680 := hlegal.2.2
  have hkept {a : Nat} (htables : 0x00003100 ≤ a) (hout : a < 0x04000000) :
      ((s.importCommit lo hi).enhanceCommit r).byteAt a = (s.importCommit lo hi).byteAt a :=
    byteAt_enhanceCommit_outside hr (.inr htables) (.inl hout)
  have hf8in : ((s.importCommit lo hi).enhanceCommit r).f8inAt i = (s.importCommit lo hi).f8inAt i :=
    f8inAt_congr (hkept (by omega) (by omega))
  refine ⟨?_, hf8in, ?_⟩
  · rw [← f16At_importCommit (lo := lo) (hi := hi) hlegal h, State.f16At, State.f16At, hkept (by omega) (by omega),
      hkept (by omega) (by omega)]
  · rw [hf8in]
    exact f8outAt_enhanceCommit hr h

/-- Settles O27: the stream is loaded and compressed into a frame with the pixels of m, hence with its statistics, and
ENHANCE on that frame is O26's. -/
theorem pipelineCompletes : Obligations.PipelineCompletes := by
  intro s m r lo hi hlegal hlen hlo hhi hbounds hrange hfin hpos hm hframe htable
  obtain ⟨mem, rfl⟩ : ∃ mem, m = { s with mem := mem } := ⟨_, hm⟩
  have hextremes : s.RawExtremes lo hi := ⟨hlo, hhi, hbounds⟩
  have hsame (i : Nat) (h : i < s.pixels) : (s.importCommit lo hi).f8inAt i = State.f8inAt { s with mem := mem } i :=
    (f8inAt_importCommit hextremes hrange h).trans (hframe i h).symm
  obtain ⟨hk, hcount, hhist⟩ := frameStatistics_congr (s := { s with mem := mem }) (t := s.importCommit lo hi) rfl rfl
    rfl hsame
  have h : (s.importCommit lo hi).Enhances r := by
    refine ⟨hlegal, getLsbD_setBit _ 1 true 1 (by decide), ⟨hfin, hpos⟩, ?_⟩
    rw [hk, hcount, hhist]
    exact (toneSteps_congr (s := s) rfl rfl _ _ _ _).trans htable
  have hrun := (runCommand_pipeline hlegal hlen hextremes hrange).trans (runCommand_enhance h)
  refine ⟨_, (exec_eq_runCommand .pipeline s).trans (congrArg _ hrun), fun i hi' => ?_,
    (k_afterHist h.legal).trans hk, (count_afterHist h.legal).trans hcount, fun v hv => ⟨?_, ?_⟩,
    fun a htables hload hcompress hout => ?_, pipelineCommit_complete_eq s r lo hi,
    fallbackTone_fallbackCompress _ _ _⟩
  · obtain ⟨hf16, hf8in, hf8out⟩ := frames_pipelineCommit (lo := lo) (hi := hi) h.sized hlegal hi'
    exact ⟨hf16, hf8in.trans (hsame i hi'), hf8out⟩
  · exact (histAt_enhanceCommit h.sized h.legal hv).trans (congrFun hhist v)
  · exact lutAt_enhanceCommit h.sized hv
  · have hkept : ((s.importCommit lo hi).enhanceCommit r).byteAt a = (s.importCommit lo hi).byteAt a :=
      byteAt_enhanceCommit_outside h.sized htables hout
    exact hkept.trans (byteAt_importCommit_outside hload hcompress)

end Sys2Proof.Machine

/-! ## Settling O49: the registers and the storage as every step keeps them -/

namespace Sys2Proof.Machine

/-! ### The invariant, part by part -/

/-- The storage's part: the canonical form, and bytes of buffer elements only (R56, R60). -/
structure Memory.StorageOk (m : Memory) : Prop where
  wf : m.wf = true
  stored : ∀ c ∈ m, (bufferAt Config.params c.1).isSome = true

/-- The part of the registers with reserved bits beside STATUS and the extremes (R19, R24, R35). -/
structure ReservedOk (ctrl valid fallback : Word) : Prop where
  ctrl : ctrl &&& 0xFFFFFFE0 = 0
  valid : valid &&& 0xFFFFFFE0 = 0
  fallback : fallback &&& 0xFFFFFFF8 = 0

/-- The part of STATUS and ERRINFO: reserved bits 0, a clean report while BUSY = 1, a report of the table (R20, R141,
R165). -/
structure ReportOk (status errinfo : Word) : Prop where
  reserved : status &&& 0xFFFFF0F0 = 0
  clean : status.getLsbD 0 = true →
    status.getLsbD 1 = false ∧ status.getLsbD 2 = false ∧ status.extractLsb' 8 4 = 0 ∧ errinfo = 0
  table : reportable (status.extractLsb' 8 4) errinfo

/-- The part of MINV and MAXV (R29). -/
abbrev ExtremesOk (minv maxv : Word) : Prop := minv.toNat < 65536 ∧ maxv.toNat < 65536

theorem registersOk_iff (s : State) :
    s.RegistersOk ↔ s.mem.StorageOk ∧ ReservedOk s.ctrl s.valid s.fallback ∧ ExtremesOk s.minv s.maxv ∧
      ReportOk s.status s.errinfo := by
  constructor
  · rintro ⟨hwf, hstored, hctrl, hstatus, hvalid, hfallback, hextremes, hclean, htable⟩
    exact ⟨⟨hwf, hstored⟩, ⟨hctrl, hvalid, hfallback⟩, hextremes, ⟨hstatus, hclean, htable⟩⟩
  · rintro ⟨⟨hwf, hstored⟩, ⟨hctrl, hvalid, hfallback⟩, hextremes, ⟨hstatus, hclean, htable⟩⟩
    exact ⟨hwf, hstored, hctrl, hstatus, hvalid, hfallback, hextremes, hclean, htable⟩

/-! ### Reserved bits -/

theorem and_reserved {w mask : Word} (h : w &&& mask = 0) (x : Word) : (w &&& x) &&& mask = 0 := by
  rw [BitVec.and_assoc, BitVec.and_comm x, ← BitVec.and_assoc, h]
  exact BitVec.zero_and

theorem or_reserved {w x mask : Word} (h : w &&& mask = 0) (hx : x &&& mask = 0) : (w ||| x) &&& mask = 0 := by
  rw [BitVec.and_or_distrib_right, h, hx]
  exact BitVec.or_zero

/-- Setting or clearing a bit outside the mask. -/
theorem setBit_reserved {w mask : Word} (h : w &&& mask = 0) {i : Nat} (hi : (1#32 <<< i) &&& mask = 0) (b : Bool) :
    setBit w i b &&& mask = 0 := by
  cases b
  · exact and_reserved h _
  · exact or_reserved h hi

theorem ReservedOk.setValid {ctrl valid fallback : Word} (h : ReservedOk ctrl valid fallback) {i : Nat} (hi : i < 5)
    (b : Bool) : ReservedOk ctrl (setBit valid i b) fallback :=
  ⟨h.ctrl, setBit_reserved h.valid (by interval_cases i <;> rfl) b, h.fallback⟩

theorem ReservedOk.setFallback {ctrl valid fallback : Word} (h : ReservedOk ctrl valid fallback) {i : Nat} (hi : i < 3)
    (b : Bool) : ReservedOk ctrl valid (setBit fallback i b) :=
  ⟨h.ctrl, h.valid, setBit_reserved h.fallback (by interval_cases i <;> rfl) b⟩

theorem ReservedOk.clearValid {ctrl valid fallback : Word} (h : ReservedOk ctrl valid fallback) :
    ReservedOk ctrl 0 fallback :=
  ⟨h.ctrl, BitVec.zero_and, h.fallback⟩

theorem ReservedOk.writeCtrl {ctrl valid fallback : Word} (h : ReservedOk ctrl valid fallback) (v : Word) :
    ReservedOk (v &&& ctrlMask) valid fallback := by
  refine ⟨?_, h.valid, h.fallback⟩
  rw [BitVec.and_assoc, show ctrlMask &&& 0xFFFFFFE0 = 0 from rfl]
  exact BitVec.and_zero

/-! ### The report: what each way that STATUS changes does to it -/

/-- ERRCODE after an update of STATUS that keeps the bits of a mask and sets others. -/
theorem errcode_and_or (st mask bits : Word) :
    ((st &&& mask) ||| bits).extractLsb' 8 4 =
      (st.extractLsb' 8 4 &&& mask.extractLsb' 8 4) ||| bits.extractLsb' 8 4 := by
  rw [BitVec.extractLsb'_or, BitVec.extractLsb'_and]

theorem errcode_statusAccepted (st : Word) : (statusAccepted st).extractLsb' 8 4 = 0 := by
  rw [statusAccepted, errcode_and_or]
  exact congrArg (· ||| (0 : BitVec 4)) BitVec.and_zero

theorem errcode_statusCompleted (st : Word) : (statusCompleted st).extractLsb' 8 4 = st.extractLsb' 8 4 := by
  rw [statusCompleted, errcode_and_or, show (0xFFFFFFFE : Word).extractLsb' 8 4 = BitVec.allOnes 4 from rfl,
    BitVec.and_allOnes]
  exact BitVec.or_zero

theorem errcode_statusFailed (st : Word) (code : ErrCode) :
    (statusFailed st code).extractLsb' 8 4 = code.number := by
  have hcode : (0x00000006 ||| (code.number.setWidth 32 <<< 8) : Word).extractLsb' 8 4 = code.number := by
    cases code <;> rfl
  rw [statusFailed, BitVec.or_assoc, errcode_and_or, hcode]
  exact (congrArg (· ||| code.number) BitVec.and_zero).trans BitVec.zero_or

theorem errcode_statusViolated (st : Word) : (statusViolated st).extractLsb' 8 4 = st.extractLsb' 8 4 := by
  rw [statusViolated, BitVec.extractLsb'_or]
  exact BitVec.or_zero

/-- The bits of STATUS other than HOST_VIOL after a dropped write (R183). -/
theorem getLsbD_statusViolated (st : Word) {i : Nat} (hi : i ≠ 3) : (statusViolated st).getLsbD i = st.getLsbD i := by
  rw [statusViolated, BitVec.getLsbD_or, show (0x00000008 : Word) = BitVec.twoPow 32 3 from rfl, BitVec.getLsbD_twoPow]
  simp [hi.symm]

/-- An acceptance clears the report (R141). -/
theorem reportOk_accepted (st : Word) : ReportOk (statusAccepted st) 0 where
  reserved := or_reserved (by rw [BitVec.and_assoc]; exact BitVec.and_zero) rfl
  clean := fun _ => ⟨by simp [statusAccepted], by simp [statusAccepted], errcode_statusAccepted st, rfl⟩
  table := .inl ⟨errcode_statusAccepted st, rfl⟩

/-- A completion ends BUSY and leaves the report (R142). -/
theorem ReportOk.completed {st info : Word} (h : ReportOk st info) : ReportOk (statusCompleted st) info where
  reserved := or_reserved (and_reserved h.reserved _) rfl
  clean := fun hbusy => absurd hbusy (by simp [statusCompleted])
  table := (errcode_statusCompleted st).symm ▸ h.table

/-- An error ends BUSY with the pair that it reports (R142, R165). -/
theorem ReportOk.failed {st info : Word} (h : ReportOk st info) {code : ErrCode} {info' : Word}
    (hpair : reportable code.number info') : ReportOk (statusFailed st code) info' where
  reserved := or_reserved (or_reserved (and_reserved h.reserved _) rfl) (by cases code <;> rfl)
  clean := fun hbusy => absurd hbusy (by simp [statusFailed])
  table := (errcode_statusFailed st code).symm ▸ hpair

/-- A dropped write sets HOST_VIOL, no bit of the report (R183). -/
theorem ReportOk.violated {st info : Word} (h : ReportOk st info) : ReportOk (statusViolated st) info := by
  refine ⟨or_reserved h.reserved rfl, ?_, (errcode_statusViolated st).symm ▸ h.table⟩
  rw [getLsbD_statusViolated st (by decide), getLsbD_statusViolated st (by decide),
    getLsbD_statusViolated st (by decide), errcode_statusViolated]
  exact h.clean

/-- A write of STATUS only clears bits, and no bit of ERRCODE (R20). -/
theorem ReportOk.cleared {st info : Word} (h : ReportOk st info) (v : Word) : ReportOk (statusCleared st v) info := by
  refine ⟨and_reserved h.reserved _, fun hbusy => ?_, (statusCleared_errcode st v).symm ▸ h.table⟩
  have hset : st.getLsbD 0 = true := by
    rw [getLsbD_statusCleared, Bool.and_eq_true] at hbusy
    exact hbusy.1
  obtain ⟨hdone, herr, hcode, hinfo⟩ := h.clean hset
  exact ⟨by rw [getLsbD_statusCleared, hdone, Bool.false_and], by rw [getLsbD_statusCleared, herr, Bool.false_and],
    (statusCleared_errcode st v).trans hcode, hinfo⟩

/-! ### The errors that a command can report -/

/-- The pair of (ERRCODE, ERRINFO) that raising the error reports is one of R165's table. -/
abbrev StageError.Reportable (e : StageError) : Prop :=
  reportable e.code.number ((0 : BitVec 16) ++ e.step ++ e.stage)

/-- TONE's steps raise DEGENERATE_STATISTICS at step 2, 5 or 6 (R113, R121, R125). -/
theorem toneSteps_error {p : Params} {s : State} {n k count : Nat} {hist : List Nat} {e : StageError}
    (h : toneSteps p s n k count hist = .error e) :
    e.code = .degenerateStatistics ∧ e.stage = 0x05 ∧ (e.step = 2 ∨ e.step = 5 ∨ e.step = 6) := by
  rw [toneSteps_eq] at h
  split at h
  · rename_i hblend
    cases h
    rw [toneBlend_eq] at hblend
    split at hblend
    · split at hblend <;> cases hblend
      exact ⟨rfl, rfl, .inl rfl⟩
    · split at hblend <;> cases hblend
      exact ⟨rfl, rfl, .inl rfl⟩
  · split at h
    · rename_i hweight
      cases h
      simp only [toneWeight] at hweight
      split at hweight
      · split at hweight <;> cases hweight
        exact ⟨rfl, rfl, .inr (.inl rfl)⟩
      · cases hweight
    · split at h <;> cases h
      exact ⟨rfl, rfl, .inr (.inr rfl)⟩

/-- A degenerate step of TONE is in the table (R165). -/
theorem reportable_degenerate {e : StageError} (hcode : e.code = .degenerateStatistics) (hstage : e.stage = 0x05)
    (hstep : e.step = 2 ∨ e.step = 5 ∨ e.step = 6) : e.Reportable := by
  rw [StageError.Reportable, hcode, hstage]
  rcases hstep with hstep | hstep | hstep <;> rw [hstep] <;> decide

/-! ### What a stage answers -/

/-- A stage answers a state whose extremes are 16-bit values, or an error of the table. -/
def OutcomeOk : Except StageError State → Prop
  | .ok t => ExtremesOk t.minv t.maxv
  | .error e => e.Reportable

theorem OutcomeOk.ite {c : Prop} [Decidable c] {x y : Except StageError State} (hx : OutcomeOk x) (hy : OutcomeOk y) :
    OutcomeOk (if c then x else y) := by
  split
  · exact hx
  · exact hy

theorem outcomeOk_error {code : ErrCode} {stage : Byte} (h : StageError.Reportable ⟨code, stage, 0⟩) :
    OutcomeOk (.error ⟨code, stage, 0⟩) := h

/-- The extremes of a list of samples are 16-bit values, of no sample too (R29, R95). -/
theorem minSample_le (xs : List Half) : minSample xs ≤ 65535 :=
  List.foldlRecOn xs _ (motive := (· ≤ 65535)) le_rfl fun _ hm _ _ => (Nat.min_le_left _ _).trans hm

theorem maxSample_le (xs : List Half) : maxSample xs ≤ 65535 :=
  List.foldlRecOn xs _ (motive := (· ≤ 65535)) (Nat.zero_le _) fun _ hm x _ =>
    Nat.max_le.mpr ⟨hm, Nat.le_of_lt_succ x.isLt⟩

section
variable {s : State}

/-- COMPRESS sets the extremes to those of its samples (R95). -/
theorem outcomeOk_stageCompress (s : State) : OutcomeOk (stageCompress Config.params s) := by
  have hcommit (px : List Byte) (flat : Bool) :
      OutcomeOk (.ok (commitCompress px (minSample s.f16Samples) (maxSample s.f16Samples) flat s)) := by
    have hlo := minSample_le s.f16Samples
    have hhi := maxSample_le s.f16Samples
    rw [OutcomeOk, commitCompress_minv, commitCompress_maxv, ExtremesOk, BitVec.toNat_ofNat, BitVec.toNat_ofNat]
    omega
  rw [stageCompress_eq]
  refine .ite (.ite (.ite (.ite (hcommit _ _) ?_) (hcommit _ _)) ?_) ?_
  all_goals exact outcomeOk_error (by decide)

variable (h : ExtremesOk s.minv s.maxv)
include h

/-- A loader raises IO_ERROR and INVALID_DIMENSIONS under its opcode (R85, R160). -/
theorem outcomeOk_stageLoad {opcode : Byte} (hop : opcode = 1 ∨ opcode = 2) (sample : Byte → Byte → Half) :
    OutcomeOk (stageLoad opcode sample s) := by
  have hio : StageError.Reportable ⟨.ioError, opcode, 0⟩ := by rcases hop with rfl | rfl <;> decide
  have hdims : StageError.Reportable ⟨.invalidDimensions, opcode, 0⟩ := by rcases hop with rfl | rfl <;> decide
  exact .ite (.ite (outcomeOk_error hio) (.ite (outcomeOk_error hdims) h)) (outcomeOk_error hdims)

theorem outcomeOk_stageHist : OutcomeOk (stageHist Config.params s) := by
  rw [stageHist_eq]
  exact .ite (.ite h (outcomeOk_error (by decide))) (outcomeOk_error (by decide))

theorem outcomeOk_stageTone : OutcomeOk (stageTone Config.params s) := by
  rw [stageTone_eq]
  refine .ite (.ite (.ite ?_ (outcomeOk_error (by decide))) (outcomeOk_error (by decide))) (outcomeOk_error (by decide))
  split
  · exact h
  · rename_i e houtcome
    obtain ⟨hcode, hstage, hstep⟩ := toneSteps_error houtcome
    exact reportable_degenerate hcode hstage hstep

theorem outcomeOk_stageRemap : OutcomeOk (stageRemap Config.params s) := by
  rw [stageRemap_eq]
  exact .ite (.ite h (outcomeOk_error (by decide))) (outcomeOk_error (by decide))

/-- So does every stage of every command: seven stages in all. -/
theorem outcomeOk_stage {i : Instr} {stage : Stage} (hmem : stage ∈ stagesOf i) : OutcomeOk (stage s) := by
  have hcases : stage = stageLoadBe Config.params ∨ stage = stageLoadNative Config.params ∨
      stage = stageCompress Config.params ∨ stage = stageHist Config.params ∨ stage = stageTone Config.params ∨
      stage = stageRemap Config.params ∨ stage = stageInvalidate := by
    cases i <;> simp only [stagesOf, List.mem_cons, List.not_mem_nil, or_false] at hmem <;> tauto
  rcases hcases with rfl | rfl | rfl | rfl | rfl | rfl | rfl
  · rw [stageLoadBe_eq]
    exact outcomeOk_stageLoad h (.inl rfl) loadBeSample
  · rw [stageLoadNative_eq]
    exact outcomeOk_stageLoad h (.inr rfl) (loadNativeSample Config.params)
  · exact outcomeOk_stageCompress s
  · exact outcomeOk_stageHist h
  · exact outcomeOk_stageTone h
  · exact outcomeOk_stageRemap h
  · exact h

end

/-! ### Storage: every write stays inside the buffers -/

/-- A store that fits its buffer keeps the storage's part. -/
theorem Memory.StorageOk.store {m : Memory} (h : m.StorageOk) {b : Buffer} {bs : List Byte}
    (hfit : bs.length ≤ b.bytes Config.params) : (m.store b bs).StorageOk := by
  refine ⟨wf_store h.wf b bs, fun c hc => ?_⟩
  rcases mem_write hc with hold | hnew
  · exact h.stored c hold
  · rw [(bufferAt_iff c.1 b).mpr ⟨hnew.1, by omega⟩]
    rfl

theorem Memory.StorageOk.foldl_store {bytes : Buffer → List Byte} {bs : List Buffer} {m : Memory} (h : m.StorageOk)
    (hfit : ∀ b ∈ bs, (bytes b).length ≤ b.bytes Config.params) :
    (bs.foldl (fun m b => m.store b (bytes b)) m).StorageOk :=
  List.foldlRecOn bs _ h fun _ hm b hb => hm.store (hfit b hb)

theorem Memory.StorageOk.toneStore {m : Memory} (h : m.StorageOk) {r : ToneResult} (hr : r.Sized) :
    (toneStore r m).StorageOk := by
  rw [toneStore_eq]
  refine h.foldl_store fun b hb => ?_
  obtain ⟨hlen, hbytes⟩ := length_toneBytes hr hb
  exact (hlen.trans hbytes.symm).le

/-- Of the host's bytes only those at host-writable offsets are stored, and these are a buffer's (R56, R60). -/
theorem Memory.StorageOk.storeHostBytes {m : Memory} (h : m.StorageOk) (bs : List Byte) (a : Nat) :
    (storeHostBytes Config.params bs a m).StorageOk := by
  induction bs generalizing a m with
  | nil => exact h
  | cons b bs ih =>
    rw [Machine.storeHostBytes]
    split
    · rename_i hw
      refine ih ⟨wf_write h.wf _ _, fun c hc => ?_⟩ _
      rcases mem_write hc with hold | ⟨hlo, hhi⟩
      · exact h.stored c hold
      · obtain rfl : a = c.1 := by simp at hhi; omega
        rw [hostWritableAt] at hw
        split at hw
        · rename_i hb
          rw [hb]
          rfl
        · cases hw
    · exact ih h _

/-! ### The invariant, kept -/

theorem State.RegistersOk.of_parts {t : State} (hstorage : t.mem.StorageOk)
    (hreserved : ReservedOk t.ctrl t.valid t.fallback) (hextremes : ExtremesOk t.minv t.maxv)
    (hreport : ReportOk t.status t.errinfo) : t.RegistersOk :=
  (registersOk_iff t).mpr ⟨hstorage, hreserved, hextremes, hreport⟩

/-- An update of other registers only. -/
theorem State.RegistersOk.of_same {s t : State} (h : s.RegistersOk) (hmem : t.mem = s.mem) (hctrl : t.ctrl = s.ctrl)
    (hvalid : t.valid = s.valid) (hfallback : t.fallback = s.fallback) (hminv : t.minv = s.minv)
    (hmaxv : t.maxv = s.maxv) (hstatus : t.status = s.status) (herrinfo : t.errinfo = s.errinfo) : t.RegistersOk := by
  rw [registersOk_iff] at h ⊢
  rwa [hmem, hctrl, hvalid, hfallback, hminv, hmaxv, hstatus, herrinfo]

/-- Every commit keeps the storage's part: each store fits its buffer. -/
theorem State.Commits.keeps_storageOk {s t : State} (hc : s.Commits t) (h : s.mem.StorageOk) : t.mem.StorageOk := by
  obtain rfl | ⟨hlegal, ⟨xs, rfl, hlen, -⟩ | ⟨px, lo, hi, flat, rfl, hlen⟩ | ⟨diffs, rfl, -⟩ | ⟨r, rfl, hr⟩ |
    ⟨px, rfl, hlen⟩⟩ := hc
  · exact h
  · refine h.store (b := .f16) ?_
    rw [flatMap_length_const _ 2 halfBytes_length, hlen]
    exact Nat.mul_le_mul_left 2 hlegal.2.2
  · exact h.store (b := .f8in) (hlen.trans_le hlegal.2.2)
  · refine h.store (b := .hist) ?_
    rw [flatMap_length_const _ 4 fun n => wordElemBytes_length (BitVec.ofNat 32 n)]
    simp [histBinsOf, Buffer.bytes, Buffer.elemBytes, Buffer.capacity]
  · exact h.toneStore hr
  · exact h.store (b := .f8out) (hlen.trans_le hlegal.2.2)

/-- Every commit leaves CTRL, and sets or clears bits of VALID and FALLBACK that exist (R24, R35). -/
theorem State.Commits.keeps_reservedOk {s t : State} (hc : s.Commits t) (h : ReservedOk s.ctrl s.valid s.fallback) :
    ReservedOk t.ctrl t.valid t.fallback := by
  obtain rfl | ⟨-, ⟨xs, rfl, -⟩ | ⟨px, lo, hi, flat, rfl, -⟩ | ⟨diffs, rfl, -⟩ | ⟨r, rfl, -⟩ | ⟨px, rfl, -⟩⟩ := hc
  · exact h.clearValid
  · exact h.setValid (i := 0) (by decide) true
  · exact (h.setValid (i := 1) (by decide) true).setFallback (i := 0) (by decide) flat
  · exact h.setValid (i := 2) (by decide) true
  · exact ((h.setValid (i := 3) (by decide) true).setFallback (i := 1) (by decide) r.blend.fallback).setFallback
      (i := 2) (by decide) r.pdfFallback
  · exact h.setValid (i := 4) (by decide) true

theorem State.Commits.errinfo_eq {s t : State} (h : s.Commits t) : t.errinfo = s.errinfo := by
  obtain rfl | ⟨-, ⟨_, rfl, -⟩ | ⟨_, _, _, _, rfl, -⟩ | ⟨_, rfl, -⟩ | ⟨_, rfl, -⟩ | ⟨_, rfl, -⟩⟩ := h <;> rfl

/-- A stage that commits keeps the invariant. -/
theorem registersOk_stage {i : Instr} {stage : Stage} (hmem : stage ∈ stagesOf i) {s t : State} (h : s.RegistersOk)
    (hstage : stage s = .ok t) : t.RegistersOk := by
  obtain ⟨hstorage, hreserved, hextremes, hreport⟩ := (registersOk_iff s).mp h
  have hcommits := stage_commits hmem hstage
  have houtcome := outcomeOk_stage hextremes hmem
  rw [hstage] at houtcome
  refine .of_parts (hcommits.keeps_storageOk hstorage) (hcommits.keeps_reservedOk hreserved) houtcome ?_
  rwa [hcommits.status_eq, hcommits.errinfo_eq]

theorem registersOk_complete {s : State} (h : s.RegistersOk) : s.complete.RegistersOk := by
  obtain ⟨hstorage, hreserved, hextremes, hreport⟩ := (registersOk_iff s).mp h
  exact .of_parts hstorage hreserved hextremes hreport.completed

theorem registersOk_raise {s : State} (h : s.RegistersOk) {e : StageError} (he : e.Reportable) :
    (s.raise e).RegistersOk := by
  obtain ⟨hstorage, hreserved, hextremes, hreport⟩ := (registersOk_iff s).mp h
  exact .of_parts hstorage hreserved hextremes (hreport.failed he)

/-- An illegal word is reported with its own bits [7:0] (R159). -/
theorem reportable_illegal (opcode : Byte) : StageError.Reportable ⟨.illegalCommand, opcode, 0⟩ := by
  have hinfo : ((0 : BitVec 16) ++ (0 : Byte) ++ opcode : Word).toNat = opcode.toNat := by
    rw [toNat_append_eq_add]
    exact Nat.zero_add _
  exact .inr (.inr (.inr (.inr (.inr (.inl ⟨rfl, hinfo.trans_le (Nat.le_of_lt_succ opcode.isLt)⟩)))))

/-- A command whose stages begin in a state with the invariant ends in one. -/
theorem registersOk_runCommand {i : Instr} {stages : List Stage} (hsub : ∀ stage ∈ stages, stage ∈ stagesOf i)
    {s : State} (h : s.RegistersOk) : (runCommand stages s).RegistersOk := by
  induction stages generalizing s with
  | nil => exact registersOk_complete h
  | cons stage rest ih =>
    have hmem := hsub stage List.mem_cons_self
    cases hstage : stage s with
    | ok t =>
      rw [runCommand_cons_ok hstage]
      exact ih (fun x hx => hsub x (List.mem_cons_of_mem _ hx)) (registersOk_stage hmem h hstage)
    | error e =>
      have houtcome := outcomeOk_stage h.extremesReserved hmem
      rw [hstage] at houtcome
      rw [runCommand_cons_error hstage]
      exact registersOk_raise h houtcome

theorem registersOk_engineTurn {s t : State} (h : s.RegistersOk) (hturn : engineTurn s = .next t) :
    t.RegistersOk := by
  rcases engineTurn_cases hturn with ⟨-, i, -, hexec⟩ | ⟨-, -, rfl⟩ | ⟨-, rfl⟩
  · rw [exec_eq_runCommand] at hexec
    cases hexec
    exact registersOk_runCommand (fun _ hx => hx) h
  · exact registersOk_raise h (reportable_illegal _)
  · exact h

theorem registersOk_violate {s : State} (h : s.RegistersOk) : s.violate.RegistersOk := by
  obtain ⟨hstorage, hreserved, hextremes, hreport⟩ := (registersOk_iff s).mp h
  exact .of_parts hstorage hreserved hextremes hreport.violated

theorem registersOk_acknowledge {s : State} (h : s.RegistersOk) (v : Word) : (s.acknowledge v).RegistersOk := by
  obtain ⟨hstorage, hreserved, hextremes, hreport⟩ := (registersOk_iff s).mp h
  exact .of_parts hstorage hreserved hextremes (hreport.cleared v)

theorem registersOk_writeRegIdle {s : State} (h : s.RegistersOk) (v : Word) (r : RegName) :
    (writeRegIdle s v r).RegistersOk := by
  obtain ⟨hstorage, hreserved, hextremes, hreport⟩ := (registersOk_iff s).mp h
  cases r with
  | ctrl => exact .of_parts hstorage (hreserved.writeCtrl v) hextremes hreport
  | status => exact registersOk_acknowledge h v
  | cmd => exact .of_parts hstorage hreserved hextremes (reportOk_accepted s.status)
  | width => exact .of_parts hstorage hreserved.clearValid hextremes hreport
  | height => exact .of_parts hstorage hreserved.clearValid hextremes hreport
  | valid => exact .of_parts hstorage (hreserved.setValid (i := 1) (by decide) _) hextremes hreport
  | _ => exact .of_parts hstorage hreserved hextremes hreport

theorem registersOk_writeReg {s : State} (h : s.RegistersOk) (a : Nat) (v : Word) : (writeReg s a v).RegistersOk := by
  rw [writeReg]
  split
  · rename_i r _
    split
    · rw [writeRegBusy]
      split
      · exact registersOk_acknowledge h v
      · split
        · exact registersOk_violate h
        · exact h
    · exact registersOk_writeRegIdle h v r
  · exact h

theorem registersOk_writeWindow {s : State} (h : s.RegistersOk) (size : AccessSize) (a : Nat) (v : Word) :
    (writeWindow Config.params s size a v).RegistersOk := by
  rw [writeWindow]
  split
  · split
    · exact registersOk_violate h
    · exact h
  · obtain ⟨hstorage, hreserved, hextremes, hreport⟩ := (registersOk_iff s).mp h
    exact .of_parts (hstorage.storeHostBytes _ _) hreserved hextremes hreport

theorem registersOk_hostAccess {s t : State} {a : Access} (h : s.RegistersOk)
    (hacc : hostAccess Config.params s a = .next t) : t.RegistersOk := by
  rcases hostAccess_cases hacc with ⟨size, off, -, -, rfl⟩ | ⟨size, off, v, -, -, rfl⟩ | ⟨d, rfl⟩
  · rw [hostRead]
    split <;> exact h.of_same rfl rfl rfl rfl rfl rfl rfl rfl
  · rw [hostWrite]
    split
    · exact (registersOk_writeReg h off v).of_same rfl rfl rfl rfl rfl rfl rfl rfl
    · exact (registersOk_writeWindow h size off v).of_same rfl rfl rfl rfl rfl rfl rfl rfl
  · exact h.of_same rfl rfl rfl rfl rfl rfl rfl rfl

/-- Settles O49: a stage commits stores that fit their buffers and bits that exist, or raises an error of the table; a
host access changes STATUS by an acknowledgement, an acceptance or a recorded violation; and the reset begins anew. -/
theorem stepKeepsRegistersOk : Obligations.StepKeepsRegistersOk := by
  intro s t h hstep
  have hmoves : State.RegistersOk { s with moves := s.moves.tail } := h.of_same rfl rfl rfl rfl rfl rfl rfl rfl
  rcases step_cases hstep with ⟨hturn, -⟩ | ⟨a, -, hacc⟩ | ⟨-, rfl⟩
  · exact registersOk_engineTurn hmoves hturn
  · exact registersOk_hostAccess hmoves hacc
  · exact registersOk_reset.of_same rfl rfl rfl rfl rfl rfl rfl rfl

end Sys2Proof.Machine

/-! ## Settling O47 and O48: what an access does to CTRL and STATUS, and when irq rises and HOST_VIOL falls -/

namespace Sys2Proof.Machine

/-! ### What an access does to CTRL and STATUS -/

/-- What a host access leaves of CTRL and STATUS: both as they were, or STATUS with HOST_VIOL set, or STATUS of an
acceptance (R20, R141, R183). -/
def State.FlagsKept (s t : State) : Prop :=
  t.ctrl = s.ctrl ∧
    (t.status = s.status ∨ t.status = statusViolated s.status ∨ t.status = statusAccepted s.status)

theorem flagsKept_of_eq {s t : State} (hctrl : t.ctrl = s.ctrl) (hstatus : t.status = s.status) : s.FlagsKept t :=
  ⟨hctrl, .inl hstatus⟩

theorem flagsKept_violate (s : State) : s.FlagsKept s.violate := ⟨rfl, .inr (.inl rfl)⟩

/-- A write to the register block: of CTRL while idle, of STATUS, or of no other effect on CTRL and STATUS than these
(R19, R20, R141, R183). -/
theorem writeReg_flags (s : State) (a : Nat) (v : Word) :
    (a = 0x000 ∧ s.busy = false ∧ writeReg s a v = { s with ctrl := v &&& ctrlMask }) ∨
      (a = 0x004 ∧ writeReg s a v = s.acknowledge v) ∨ s.FlagsKept (writeReg s a v) := by
  cases hreg : regAt a with
  | none =>
    rw [writeReg_reserved hreg]
    exact .inr (.inr (flagsKept_of_eq rfl rfl))
  | some r =>
    obtain rfl := regAt_some hreg
    cases hbusy : s.busy with
    | true =>
      rw [writeReg_offset_busy hbusy, writeRegBusy]
      split
      · rename_i hr
        exact .inr (.inl ⟨congrArg RegName.offset hr, rfl⟩)
      · split
        · exact .inr (.inr (flagsKept_violate s))
        · exact .inr (.inr (flagsKept_of_eq rfl rfl))
    | false =>
      rw [writeReg_offset_idle hbusy]
      cases r with
      | ctrl => exact .inl ⟨rfl, rfl, rfl⟩
      | status => exact .inr (.inl ⟨rfl, rfl⟩)
      | cmd => exact .inr (.inr ⟨rfl, .inr (.inr rfl)⟩)
      | _ => exact .inr (.inr (flagsKept_of_eq rfl rfl))

theorem writeWindow_flags (p : Params) (s : State) (size : AccessSize) (a : Nat) (v : Word) :
    s.FlagsKept (writeWindow p s size a v) := by
  rw [writeWindow]
  split
  · split
    · exact flagsKept_violate s
    · exact flagsKept_of_eq rfl rfl
  · exact flagsKept_of_eq rfl rfl

/-- A register access that is answered OKAY is 4 bytes wide (R53). -/
theorem size_eq_word_of_accessOkay {size : AccessSize} {a : Nat} (h : accessOkay size a = true) (hreg : a < 0x1000) :
    size = .word := by
  simpa [accessOkay, Nat.not_le.mpr hreg] using (Bool.and_eq_true_iff.mp h).2

/-- Everything that an access can do to CTRL and STATUS: an idle write of CTRL, a write of STATUS, or nothing but to
record a violation or an acceptance. -/
theorem hostAccess_flags {p : Params} {s t : State} {a : Access} (h : hostAccess p s a = .next t) :
    (∃ v, a = .write .word 0x000 v ∧ s.busy = false ∧ t.ctrl = v &&& ctrlMask ∧ t.status = s.status) ∨
      (∃ v, a = .write .word 0x004 v ∧ t.ctrl = s.ctrl ∧ t.status = statusCleared s.status v) ∨ s.FlagsKept t := by
  rcases hostAccess_cases h with ⟨size, off, -, -, rfl⟩ | ⟨size, off, v, rfl, hok, rfl⟩ | ⟨d, rfl⟩
  · rw [hostRead]
    split <;> exact .inr (.inr (flagsKept_of_eq rfl rfl))
  · rw [hostWrite]
    split
    · rename_i hoff
      obtain rfl := size_eq_word_of_accessOkay hok hoff
      rcases writeReg_flags s off v with ⟨rfl, hidle, hwrite⟩ | ⟨rfl, hwrite⟩ | hkept
      · exact .inl ⟨v, rfl, hidle, by rw [hwrite]; rfl, by rw [hwrite]; rfl⟩
      · exact .inr (.inl ⟨v, rfl, by rw [hwrite]; rfl, by rw [hwrite]; rfl⟩)
      · exact .inr (.inr hkept)
    · exact .inr (.inr (writeWindow_flags p s size off v))
  · exact .inr (.inr (flagsKept_of_eq rfl rfl))

/-! ### DONE, HOST_VIOL and irq -/

section
variable {s t : State}

/-- Neither a violation nor an acceptance sets DONE. -/
theorem State.FlagsKept.irq_eq_false (h : s.FlagsKept t) (hirq : s.irq = false) : t.irq = false := by
  obtain ⟨hctrl, hstatus⟩ := h
  rw [State.irq, State.irqEn, State.done] at hirq ⊢
  rw [hctrl]
  rcases hstatus with hsame | hviolated | haccepted
  · rwa [hsame]
  · rwa [hviolated, getLsbD_statusViolated _ (by decide)]
  · rw [haccepted, show (statusAccepted s.status).getLsbD 1 = false from done_accept s 0, Bool.and_false]

/-- Neither clears HOST_VIOL. -/
theorem State.FlagsKept.hostViol (h : s.FlagsKept t) (hviol : s.hostViol = true) : t.hostViol = true := by
  obtain ⟨-, hsame | hviolated | haccepted⟩ := h
  · rw [State.hostViol, hsame]
    exact hviol
  · rw [State.hostViol, hviolated, statusViolated, BitVec.getLsbD_or]
    exact Bool.or_true _
  · rw [State.hostViol, haccepted]
    exact (hostViol_accept s 0).trans hviol

/-- A turn of the engine changes nothing while the block is idle; else it ends idle, and leaves CTRL and HOST_VIOL
(R142). -/
theorem engineTurn_flags (h : engineTurn s = .next t) :
    (s.busy = false ∧ t = s) ∨ (s.busy = true ∧ t.busy = false ∧ t.ctrl = s.ctrl ∧ t.hostViol = s.hostViol) := by
  rcases engineTurn_cases h with ⟨hbusy, i, -, hexec⟩ | ⟨hbusy, -, rfl⟩ | ⟨hidle, rfl⟩
  · obtain ⟨hctrl, -, -, -, -, -, -, -, -, -, -, -, hviol, -⟩ := noCommandWritesTheHostsState i s t hexec
    obtain ⟨t', hexec', -, hidle⟩ := exec_ends_idle i s
    obtain rfl := Host.Outcome.next.inj (hexec.symm.trans hexec')
    exact .inr ⟨hbusy, hidle, hctrl, hviol⟩
  · exact .inr ⟨hbusy, busy_raise s _, rfl, hostViol_raise s _⟩
  · exact .inl ⟨hidle, rfl⟩

end

theorem irq_resetInput (s : State) : s.resetInput.irq = false := by
  rw [State.irq, show s.resetInput.done = false from BitVec.getLsbD_zero, Bool.and_false]

/-- Settles O47: a turn of the engine raises irq only by a completion, and an access only by a write of CTRL, for a
write of STATUS clears bits and no other access sets DONE. -/
theorem interruptRisesOnlyOnCompletionOrEnable : Obligations.InterruptRisesOnlyOnCompletionOrEnable := by
  intro s t hstep hlow hhigh
  have hnot {P : Prop} (h : t.irq = false) : P := absurd (h.symm.trans hhigh) Bool.false_ne_true
  rcases step_cases hstep with ⟨hturn, -⟩ | ⟨a, hmove, hacc⟩ | ⟨-, rfl⟩
  · rcases engineTurn_flags hturn with ⟨-, rfl⟩ | ⟨hbusy, hidle, hctrl, -⟩
    · exact hnot hlow
    · have hirqEn : t.irqEn = true := (Bool.and_eq_true_iff.mp hhigh).1
      rw [State.irqEn, hctrl] at hirqEn
      exact .inl ⟨hbusy, hidle, hirqEn⟩
  · rcases hostAccess_flags hacc with ⟨v, rfl, hidle, hctrl, hstatus⟩ | ⟨v, rfl, hctrl, hstatus⟩ | hkept
    · obtain ⟨hirqEn, hdone⟩ := Bool.and_eq_true_iff.mp hhigh
      rw [State.irqEn, hctrl, BitVec.getLsbD_and, Bool.and_eq_true] at hirqEn
      rw [State.done, hstatus] at hdone
      exact .inr ⟨v, hmove, hirqEn.1, hidle, hdone⟩
    · refine hnot ?_
      rw [State.irq, State.irqEn, State.done] at hlow ⊢
      rw [hctrl, hstatus, getLsbD_statusCleared, ← Bool.and_assoc]
      exact Bool.and_eq_false_imp.mpr fun h => absurd (h.symm.trans hlow) (by decide)
    · exact hnot (hkept.irq_eq_false hlow)
  · exact hnot (irq_resetInput _)

/-- Settles O48: the engine leaves HOST_VIOL, and an access clears it only by a write of STATUS with bit 3 set. -/
theorem violationStaysUntilCleared : Obligations.ViolationStaysUntilCleared := by
  intro s t hstep hset hclear
  have hnot {P : Prop} (h : t.hostViol = true) : P := absurd (hclear.symm.trans h) Bool.false_ne_true
  rcases step_cases hstep with ⟨hturn, -⟩ | ⟨a, hmove, hacc⟩ | ⟨hreset, -⟩
  · rcases engineTurn_flags hturn with ⟨-, rfl⟩ | ⟨-, -, -, hviol⟩
    · exact hnot hset
    · exact hnot (hviol.trans hset)
  · rcases hostAccess_flags hacc with ⟨v, rfl, -, -, hstatus⟩ | ⟨v, rfl, -, hstatus⟩ | hkept
    · exact hnot ((congrArg (·.getLsbD 3) hstatus).trans hset)
    · refine .inr ⟨v, hmove, ?_⟩
      rw [State.hostViol, hstatus, getLsbD_statusCleared] at hclear
      have hbit : s.status.getLsbD 3 = true := hset
      simpa [hbit] using hclear
    · exact hnot (hkept.hostViol hset)
  · exact .inl hreset

end Sys2Proof.Machine

/-! ## Settling O1, O7 and O8: the reset input, an illegal word in CMD, and the idle block -/

namespace Sys2Proof.Machine

/-- Settles O1: the reset input is a move of its own, BUSY or not, and gives the registers of `State.reset`, which are
compared one by one, and a storage that holds no byte. -/
theorem resetInputRestoresEveryRegister : Obligations.ResetInputRestoresEveryRegister := by
  intro s rest hmoves
  exact ⟨_, step_reset hmoves, rfl, rfl, rfl, rfl, rfl, rfl, rfl, rfl, rfl, rfl, rfl, rfl, rfl, rfl, rfl, rfl, rfl, rfl,
    rfl, rfl, rfl, rfl, rfl, irq_resetInput _, busy_resetInput _, rfl, fun _ => rfl⟩

/-- A word with RESV nonzero or an OPCODE above 9 decodes to no command (R74). -/
theorem exists_decode_error {w : Word} (h : resvField w ≠ 0 ∨ 9 < (opcodeField w).toNat) :
    ∃ e, decode (wordBytes w) = .error e := by
  rw [decode_wordBytes]
  by_cases hresv : resvField w = 0
  · exact ⟨_, decodeWord_of_opcodeField_gt hresv (h.resolve_left (not_not_intro hresv))⟩
  · exact ⟨_, decodeWord_of_resvField_ne_zero hresv⟩

/-- Settles O7: the engine's step finds no command in CMD, and raises ILLEGAL_COMMAND with the word's OPCODE field. -/
theorem illegalWordCompletesWithIllegalCommand : Obligations.IllegalWordCompletesWithIllegalCommand := by
  intro s hbusy hturn hillegal
  obtain ⟨e, hdecode⟩ := exists_decode_error hillegal
  rw [step_engine_busy hbusy hturn, engineStep, hdecode]
  exact congrArg _ (raise_eq_failed { s with moves := s.moves.tail } .illegalCommand (opcodeField s.cmd))

/-- Settles O8: the engine's step is enabled only while BUSY = 1. -/
theorem idleBlockDoesNothing : Obligations.IdleBlockDoesNothing := by
  intro s hidle hturn
  have hidle' : ¬ State.busy { s with moves := s.moves.tail } = true := Bool.eq_false_iff.mp hidle
  rw [step_of_engine_turn hturn, engineTurn, if_neg hidle']

end Sys2Proof.Machine

/-! ## Settling O25 and O30: REMAP, and a stage whose input is missing -/

namespace Sys2Proof.Machine

/-! ### The outcomes of REMAP -/

theorem exec_remap_error {s : State} {code : ErrCode} (h : stageRemap Config.params s = .error ⟨code, 0x06, 0⟩) :
    exec .remap s = .next (s.failed code.number.toNat 6) :=
  (exec_eq_runCommand .remap s).trans (congrArg _ ((runCommand_cons_error h).trans (raise_eq_failed s code 0x06)))

/-- Settles O25: the checks, then the commit of the frame through the table, which O26 has as its last stage. -/
theorem remapFollowsItsRule : Obligations.RemapFollowsItsRule := by
  refine fun s => ⟨fun hillegal => ?_, fun hlegal hinvalid => ?_, fun hlegal hframe htone => ?_⟩
  · refine exec_remap_error (code := .invalidDimensions) ?_
    rw [stageRemap_eq, if_neg (mt (dimsOk_iff s).mp hillegal)]
  · have hmissing : ¬ (s.vF8in && s.vTone) = true := by
      rw [Bool.and_eq_true, ← Bool.not_eq_false, ← Bool.not_eq_false, not_and_or, not_not, not_not]
      exact hinvalid
    refine exec_remap_error (code := .sequence) ?_
    rw [stageRemap_eq, if_pos ((dimsOk_iff s).mpr hlegal), if_neg hmissing]
  · have hexec := runCommand_single_ok (stageRemap_commit hlegal hframe htone)
    exact ⟨s.remapCommit.complete, (exec_eq_runCommand .remap s).trans (congrArg _ hexec),
      fun i hi => f8outAt_remapCommit hi, fun a ha => byteAt_remapCommit_outside ha, rfl⟩

/-! ### A missing input -/

/-- The first stage of ENHANCE is HIST, whose error ends the command (R151, R164). -/
theorem exec_enhance_missing_frame {s : State} (hlegal : s.GeometryLegal) (hinvalid : s.vF8in = false) :
    exec .enhance s = .next (s.failed 6 4) := by
  have hstage : stageHist Config.params s = .error ⟨.sequence, 0x04, 0⟩ := by
    rw [stageHist_eq, if_pos ((dimsOk_iff s).mpr hlegal), if_neg (Bool.eq_false_iff.mp hinvalid)]
  exact (exec_eq_runCommand .enhance s).trans
    (congrArg _ ((runCommand_cons_error hstage).trans (raise_eq_failed s .sequence 0x04)))

/-- Settles O30: the clause of each stage's rule about its valid bits, and of the loaders' rules about a stream of 2N
bytes. -/
theorem missingInputRaisesSequence : Obligations.MissingInputRaisesSequence := by
  intro s hlegal
  obtain ⟨-, hcompress, -⟩ := compressFollowsItsRule s
  obtain ⟨-, hhist, -⟩ := histFollowsItsRule s
  obtain ⟨-, htone, -⟩ := toneRaisesItsErrorsInOrder s
  obtain ⟨-, hremap, -⟩ := remapFollowsItsRule s
  obtain ⟨-, -, -, hloadBe⟩ := loadBeFollowsItsRule s
  obtain ⟨-, -, -, hloadNative⟩ := loadNativeFollowsItsRule s
  refine ⟨hcompress hlegal, fun hinvalid => ⟨hhist hlegal hinvalid, exec_enhance_missing_frame hlegal hinvalid⟩,
    htone hlegal, hremap hlegal, fun hlen => ⟨?_, ?_⟩⟩
  · obtain ⟨t, hexec, -, -, hregs⟩ := hloadBe hlegal hlen
    exact ⟨t, hexec, congrArg State.status hregs⟩
  · obtain ⟨t, hexec, -, -, hregs⟩ := hloadNative hlegal hlen
    exact ⟨t, hexec, congrArg State.status hregs⟩

end Sys2Proof.Machine

/-! ## Settling O39 and O45: the host's accesses while a command runs -/

namespace Sys2Proof.Machine

/-! ### Writes while BUSY = 1 -/

/-- A register that drops a busy write only records it (R183). -/
theorem step_write_dropped_reg {s : State} {rest : List Move} {r : RegName} {v : Word} (hbusy : s.busy = true)
    (hmoves : s.moves = .access (.write .word r.offset v) :: rest) (hr : r.droppedBusy = true) :
    step s = .next { s with moves := rest, status := statusViolated s.status, response := some ⟨true, none⟩ } := by
  obtain ⟨hle, halign⟩ := r.offset_le
  have hbusy' : State.busy { s with moves := rest } = true := hbusy
  have hstatus : r ≠ .status := by rintro rfl; cases hr
  rw [step_write_reg hmoves (by omega) halign, writeReg_offset_busy hbusy', writeRegBusy, if_neg hstatus, if_pos hr]
  rfl

/-- A busy write at an offset of no register, or of one that ignores it, changes nothing (R46, R183). -/
theorem step_write_ignored_reg {s : State} {rest : List Move} {a : Nat} {v : Word} (hbusy : s.busy = true)
    (hmoves : s.moves = .access (.write .word a v) :: rest) (halign : a % 4 = 0) (hblock : a < 0x1000)
    (hr : ∀ r, regAt a = some r → r ≠ .status ∧ r.droppedBusy = false) :
    step s = .next { s with moves := rest, response := some ⟨true, none⟩ } := by
  have hbusy' : State.busy { s with moves := rest } = true := hbusy
  have hsame : writeReg { s with moves := rest } a v = { s with moves := rest } := by
    cases hreg : regAt a with
    | none => exact writeReg_reserved hreg _ v
    | some r =>
      obtain ⟨hstatus, hkept⟩ := hr r hreg
      obtain rfl := regAt_some hreg
      rw [writeReg_offset_busy hbusy', writeRegBusy, if_neg hstatus, if_neg (Bool.eq_false_iff.mp hkept)]
  rw [step_write_reg hmoves hblock halign, hsame]
  rfl

/-- ERRINFO and the result registers are neither STATUS nor configuration (R183). -/
theorem ignoredBusy_of_offset {r : RegName} (h : r.offset = 0x00C ∨ 0x030 ≤ r.offset) :
    r ≠ .status ∧ r.droppedBusy = false := by
  cases r with
  | errinfo | minv | maxv | k | count | kgLo | kgHi | kprimeLo | kprimeHi | kexp | fallback | uLo | uHi | pdfminLo
  | pdfminHi | pdfmaxLo | pdfmaxHi | cdfsumLo | cdfsumHi => exact ⟨nofun, rfl⟩
  | _ => simp only [RegName.offset] at h; omega

/-- A busy write into an input buffer is only recorded (R183). -/
theorem step_write_dropped_window {s : State} {rest : List Move} {size : AccessSize} {a : Nat} {v : Word}
    (hbusy : s.busy = true) (hmoves : s.moves = .access (.write size a v) :: rest) (halign : a % size.bytes = 0)
    (h : WindowWritable a) :
    step s = .next { s with moves := rest, status := statusViolated s.status, response := some ⟨true, none⟩ } := by
  obtain ⟨hlo, hhi⟩ := h.stored.bounds
  have hbusy' : State.busy { s with moves := rest } = true := hbusy
  have hfirst : ((List.range size.bytes).any fun j => hostWritableAt Config.params (a + j)) = true :=
    List.any_eq_true.mpr ⟨0, List.mem_range.mpr (by cases size <;> decide), hostWritableAt_of_writable h⟩
  rw [step_write hmoves hhi halign (.inl hlo), hostWrite, if_neg (by omega), writeWindow, if_pos hbusy', if_pos hfirst]
  rfl

/-- Outside RAW and F8IN below capacity the windows are read-only or reserved (R56, R60). -/
theorem readOnly_or_reserved {a : Nat} (hlo : 0x1000 ≤ a) (hhi : a < 0x05000000) (h : ¬ WindowWritable a) :
    WindowReadOnly a ∨ WindowReserved a := by
  unfold WindowWritable at h
  unfold WindowReadOnly WindowReserved
  omega

/-- The offsets of CTRL, CMD, VALID and the configuration registers (R18, R183). -/
theorem exists_droppedBusy_of_mem :
    ∀ a ∈ [0x000, 0x008, 0x010, 0x014, 0x018, 0x01C, 0x020, 0x024, 0x028, 0x02C],
      ∃ r ∈ allRegs, r.offset = a ∧ r.droppedBusy = true := by
  decide

/-- Settles O39: the registers of the first clause drop the write, those of the second and the reserved offsets ignore
it; in the windows an input buffer drops it, and nothing else is host-writable. -/
theorem writesWhileBusyAreDropped : Obligations.WritesWhileBusyAreDropped := by
  intro s rest size a v hbusy hmoves halign hblock
  refine ⟨?_, ?_, fun hwindow => step_write_dropped_window hbusy hmoves halign hwindow, fun hlo hwindow => ?_⟩
  · rintro rfl ha
    obtain ⟨r, -, rfl, hr⟩ := exists_droppedBusy_of_mem a ha
    exact step_write_dropped_reg hbusy hmoves hr
  · rintro rfl ha
    refine step_write_ignored_reg hbusy hmoves halign (by omega) fun r hreg => ?_
    obtain rfl := regAt_some hreg
    exact ignoredBusy_of_offset (by omega)
  · refine step_write_ignored hmoves halign hlo (by omega) fun j hj => ?_
    rcases readOnly_or_reserved hlo (by omega) hwindow with hreadOnly | hreserved
    · exact not_hostWritableAt_of_readOnly (hreadOnly.add halign hj)
    · exact not_hostWritableAt_of_reserved (hreserved.add halign hj)

/-! ### Reads while BUSY = 1 -/

/-- A step that is an aligned busy read of the block: its data, and a fresh draw (R61, R184). -/
theorem step_read_busy {s : State} {rest : List Move} {size : AccessSize} {a : Nat} (hbusy : s.busy = true)
    (hmoves : s.moves = .access (.read size a) :: rest) (hdec : a < 0x05000000) (halign : a % size.bytes = 0)
    (hwide : 0x1000 ≤ a ∨ size = .word) :
    step s = .next { s with moves := rest, draws := s.draws + 1,
                            response := some ⟨true, some (readBusy Config.params { s with moves := rest }
                              (Config.busyRead s.draws) size a)⟩ } := by
  have hbusy' : State.busy { s with moves := rest } = true := hbusy
  rw [step_read hmoves hdec halign hwide, hostRead, if_pos hbusy']
  rfl

/-- A busy read of a register: the register where it is readable, else the draw (R182, R184). -/
theorem readBusy_offset (p : Params) (s : State) (draw : Word) (size : AccessSize) (r : RegName) :
    readBusy p s draw size r.offset = if r.readableBusy then s.reg r else draw := by
  have hle := r.offset_le.1
  rw [readBusy, if_pos (by omega), readRegBusy, regAt_offset]

/-- Every multiple of 4 up to CDFSUM_HI's offset is a register's (R18). -/
theorem exists_offset_eq {a : Nat} (halign : a % 4 = 0) (hle : a ≤ 0x074) : ∃ r : RegName, r.offset = a := by
  have hall : ∀ i < 30, ∃ r ∈ allRegs, r.offset = 4 * i := by decide
  obtain ⟨r, -, hr⟩ := hall (a / 4) (by omega)
  exact ⟨r, by omega⟩

/-- ERRINFO, VALID and the result registers are not readable while BUSY = 1 (R182). -/
theorem not_readableBusy_of_offset {r : RegName} (h : r.offset = 0x00C ∨ r.offset = 0x01C ∨ 0x030 ≤ r.offset) :
    r.readableBusy = false := by
  cases r with
  | ctrl | status | cmd | width | height | rawLen | threshold | alpha | gainLo | gainHi =>
    simp only [RegName.offset] at h; omega
  | _ => rfl

theorem range_map_getD_wordBytes (w : Word) (size : AccessSize) :
    ((List.range size.bytes).map fun j => (wordBytes w).getD j 0) = (wordBytes w).take size.bytes := by
  cases size <;> rfl

/-- A busy read of storage: the low bytes of the draw (R184, log entries 2 and 9). -/
theorem readBusy_stored {size : AccessSize} {a : Nat} (s : State) (draw : Word) (halign : a % size.bytes = 0)
    (h : WindowStored a) :
    readBusy Config.params s draw size a = BitVec.ofNat 32 (draw.toNat % 2 ^ (8 * size.bytes)) := by
  have hbyte : ∀ j ∈ List.range size.bytes,
      readByteBusy Config.params ((wordBytes draw).getD j 0) (a + j) = (wordBytes draw).getD j 0 := by
    intro j hj
    obtain ⟨b, hb⟩ := bufferAt_of_stored (h.add halign (List.mem_range.mp hj))
    rw [readByteBusy, hb]
  rw [readBusy, if_neg (by have hb := h.bounds; omega), List.map_congr_left hbyte, range_map_getD_wordBytes,
    laneWord_take_wordBytes]

/-- Settles O45: the readable registers, the other registers, and the windows below their capacity. -/
theorem busyReadsReturnConfigurationOrADraw : Obligations.BusyReadsReturnConfigurationOrADraw := by
  intro s rest size a hbusy hmoves
  refine ⟨fun r hr hsize ha => ?_, fun hsize ha => ?_, fun halign hwindow => ?_⟩
  · subst hsize ha
    obtain ⟨hle, halign⟩ := r.offset_le
    have hreadable : r.readableBusy = true := by
      have hall : ∀ r ∈ [RegName.ctrl, .status, .cmd, .width, .height, .rawLen, .threshold, .alpha, .gainLo, .gainHi],
          r.readableBusy = true := by decide
      exact hall r hr
    refine ⟨_, step_read_busy hbusy hmoves (by omega) halign (.inr rfl), ?_⟩
    rw [readBusy_offset, if_pos hreadable, reg_moves]
  · subst hsize
    obtain ⟨r, rfl⟩ : ∃ r : RegName, r.offset = a := exists_offset_eq (by omega) (by omega)
    obtain ⟨hle, halign⟩ := r.offset_le
    refine ⟨_, step_read_busy hbusy hmoves (by omega) halign (.inr rfl), ?_, rfl⟩
    rw [readBusy_offset, if_neg (Bool.eq_false_iff.mp (not_readableBusy_of_offset (by omega)))]
  · have hstored : WindowStored a := hwindow
    obtain ⟨hlo, hhi⟩ := hstored.bounds
    refine ⟨_, step_read_busy hbusy hmoves hhi halign (.inl hlo), rfl, ?_⟩
    rw [readBusy_stored _ _ halign hstored]

end Sys2Proof.Machine
